-- ==== Sys2Proof/Word.lean ====
section
/-! DEFINITION. The machine's word types (R5 of 00_scope.md) and the plainest bit packing. -/

namespace Sys2Proof

/-- The unit of data memory, register file and general registers (R103). -/
abbrev Nibble := BitVec 4

/-- An 8-bit peripheral register (R73). -/
abbrev Byte := BitVec 8

/-- A program-memory word (R100). -/
abbrev Word := BitVec 16

/-- A 7-bit address: data memory, register file or peripheral registers (R5). -/
abbrev DAddr := BitVec 7

/-- A program-memory address, held in 12 bits on every part; the part says how many are valid (R21). -/
abbrev PAddr := BitVec 12

/-- A nibble written bit by bit, most significant first, as the register figures print it. -/
abbrev nibbleOf (b3 b2 b1 b0 : Bool) : Nibble :=
  BitVec.ofBool b3 ++ BitVec.ofBool b2 ++ BitVec.ofBool b1 ++ BitVec.ofBool b0

end Sys2Proof
end

