-- ==== Sys2Proof/Config.lean ====
section
/-! DEFINITION. What one chip fixes (the parameters of 92_eei_decisions.md) and the free values of the model. -/

namespace Sys2Proof

/-- The four parts of the subseries (R1, R4). -/
inductive Part where
  | upd17145 | upd17147 | upd17149 | upd17P149
deriving DecidableEq, Repr

/-- `PCW` of R4: the width of PC, AR and every address-stack register. -/
def Part.pcw : Part → Nat
  | .upd17145 => 10
  | .upd17147 => 11
  | .upd17149 => 12
  | .upd17P149 => 12

/-- The valid bits of a program-memory address on a part (R4, R21). -/
def Part.addrMask : Part → PAddr
  | .upd17145 => 0x3FF
  | .upd17147 => 0x7FF
  | .upd17149 => 0xFFF
  | .upd17P149 => 0xFFF

/-- `ROMSIZE` of R4, in words. -/
def Part.romSize (p : Part) : Nat := 2 ^ p.pcw

/-- The edge of the INT pin that timer 0 counts, `TM0_EXT_EDGE` (D27). -/
inductive Edge where
  | rising | falling
deriving DecidableEq, Repr

/-- The four count pulses of the basic interval timer (R381). -/
inductive BtmPulse where
  | fx16384 | fx4096 | fx512 | fx16
deriving DecidableEq, Repr

/-- The parameters of a chip and its board: constant over a run. Log 1. -/
structure Config where
  /-- the part (R4) -/
  part : Part
  /-- mask option `OPT_RESET_PULLUP` (R7) -/
  optResetPullup : Bool
  /-- mask option `OPT_P0F1_PULLUP` (R7) -/
  optP0F1Pullup : Bool
  /-- mask option `OPT_P0F0_PULLUP` (R7) -/
  optP0F0Pullup : Bool
  /-- mask option `OPT_INT_PULLUP` (R7) -/
  optIntPullup : Bool
  /-- mask option `OPT_POC` (R7, R502) -/
  optPoc : Bool
  /-- `BTMCK_MAP` at BTMCK1:BTMCK0 = 00 (D10) -/
  btmck00 : BtmPulse
  /-- `BTMCK_MAP` at 01 -/
  btmck01 : BtmPulse
  /-- `BTMCK_MAP` at 10 -/
  btmck10 : BtmPulse
  /-- `BTMCK_MAP` at 11 -/
  btmck11 : BtmPulse
  /-- `TM0_EXT_EDGE` (D27) -/
  tm0ExtEdge : Edge
  /-- `OSC_GROW`, the oscillator growth time in instruction cycles (D26) -/
  oscGrow : Nat
deriving DecidableEq, Repr

/-- `BTMCK_MAP` is a bijection (D10): no two codes select one pulse. -/
def Config.wf (c : Config) : Bool :=
  decide (c.btmck00 ≠ c.btmck01) && decide (c.btmck00 ≠ c.btmck10) && decide (c.btmck00 ≠ c.btmck11)
    && decide (c.btmck01 ≠ c.btmck10) && decide (c.btmck01 ≠ c.btmck11) && decide (c.btmck10 ≠ c.btmck11)

/-- A mask option is effective only on a mask-ROM part: the µPD17P149 has none (R7). -/
def Config.option (c : Config) (o : Bool) : Bool :=
  o && decide (c.part ≠ .upd17P149)

/-- The default chip of `State.reset`: a µPD17149 without mask options (R4; the rest DESIGN CHOICE, log 1). -/
def Config.default : Config where
  part := .upd17149
  optResetPullup := false
  optP0F1Pullup := false
  optP0F0Pullup := false
  optIntPullup := false
  optPoc := false
  btmck00 := .fx16384
  btmck01 := .fx4096
  btmck10 := .fx512
  btmck11 := .fx16
  tm0ExtEdge := .rising
  oscGrow := 0

/-- Where a free value is drawn: one name for every place where the spec says "unspecified". Log 3. -/
inductive FreeSite where
  /-- a RAM nibble after a reset (U1, U2) -/
  | ram
  /-- WR after a reset (U3) -/
  | wr
  /-- an output latch after `RST_C` (U4) -/
  | portLatch
  /-- the timer-1 count after `RST_C` (U5) -/
  | tm1Count
  /-- the BTM counter after a reset (U6) -/
  | btmCount
  /-- SIOSFR after a reset (U7) -/
  | sioShift
  /-- the serial output latch after `RST_C` (U7) -/
  | soLatch
  /-- a read of an unused control register (U8) -/
  | unusedControl
  /-- a GET of a write-only register (U9) -/
  | writeOnlyGet
  /-- an address-stack register after a reset, or read at SP = 5 (U11, R245) -/
  | addrStack
  /-- other hidden state after a reset that the table of R87 does not list (U11) -/
  | hidden
  /-- WDT_CARRY when WDTEN is set outside counts 0-7 (R383) -/
  | wdtCarry
  /-- ADCCMP outside its validity (U12) -/
  | adcCompare
  /-- ADCEND in single mode (U12) -/
  | adcEnd
  /-- bits of ADCR not yet decided, or spoilt (R392, U14) -/
  | adcData
  /-- PSWORD restored with nothing saved (U13) -/
  | psword
  /-- SIOSFR read or written during a transfer (U14) -/
  | sioDisturbed
  /-- bits of a nibble that an INITFLG does not name (R164; log 36) -/
  | initflg
  /-- a floating pin (U15) -/
  | pin
  /-- IRQTM1 at the end of the wait after `RST_B` (U16) -/
  | irqTm1
  /-- the request flag of an acceptance that overflowed the address stack (R445; log 34) -/
  | irqAbandoned
deriving DecidableEq, Repr

/-- A FREE VALUE: the spec says "unspecified", so nothing constrains it. No body, so no proof can see it.
`n` is taken from the step's own counter, so that two draws may differ. Log 3. -/
opaque Config.free (w : Nat) (site : FreeSite) (n : Nat) : BitVec w

/-- One free bit. -/
def Config.freeBit (site : FreeSite) (n : Nat) : Bool := (Config.free 1 site n).getLsbD 0

end Sys2Proof
end

