-- ==== Sys2Proof/Syntax.lean ====
section
/-! DEFINITION. The instructions: one constructor per row of the opcode table (R140-R145). -/

namespace Sys2Proof

/-- The instruction set. Operand names are those of R12: `r` general register, `m` data memory, `n4` immediate,
`n` bit mask, `rf` register file, `p` peripheral register, `addr` program memory, `s` and `h` release condition. -/
inductive Instr where
  /-- `ADD r, m` (R182) -/
  | addR (r : Nibble) (m : DAddr)
  /-- `ADD m, #n4` (R183) -/
  | addI (m : DAddr) (n4 : Nibble)
  /-- `ADDC r, m` (R184) -/
  | addcR (r : Nibble) (m : DAddr)
  /-- `ADDC m, #n4` (R185) -/
  | addcI (m : DAddr) (n4 : Nibble)
  /-- `INC AR` (R186) -/
  | incAr
  /-- `INC IX` (R187) -/
  | incIx
  /-- `SUB r, m` (R201) -/
  | subR (r : Nibble) (m : DAddr)
  /-- `SUB m, #n4` (R202) -/
  | subI (m : DAddr) (n4 : Nibble)
  /-- `SUBC r, m` (R203) -/
  | subcR (r : Nibble) (m : DAddr)
  /-- `SUBC m, #n4` (R204) -/
  | subcI (m : DAddr) (n4 : Nibble)
  /-- `OR r, m` (R211) -/
  | orR (r : Nibble) (m : DAddr)
  /-- `OR m, #n4` (R212) -/
  | orI (m : DAddr) (n4 : Nibble)
  /-- `AND r, m` (R213) -/
  | andR (r : Nibble) (m : DAddr)
  /-- `AND m, #n4` (R214) -/
  | andI (m : DAddr) (n4 : Nibble)
  /-- `XOR r, m` (R215) -/
  | xorR (r : Nibble) (m : DAddr)
  /-- `XOR m, #n4` (R216) -/
  | xorI (m : DAddr) (n4 : Nibble)
  /-- `SKT m, #n` (R221) -/
  | skt (m : DAddr) (n : Nibble)
  /-- `SKF m, #n` (R222) -/
  | skf (m : DAddr) (n : Nibble)
  /-- `SKE m, #n4` (R223) -/
  | ske (m : DAddr) (n4 : Nibble)
  /-- `SKNE m, #n4` (R224) -/
  | skne (m : DAddr) (n4 : Nibble)
  /-- `SKGE m, #n4` (R225) -/
  | skge (m : DAddr) (n4 : Nibble)
  /-- `SKLT m, #n4` (R226) -/
  | sklt (m : DAddr) (n4 : Nibble)
  /-- `RORC r` (R240) -/
  | rorc (r : Nibble)
  /-- `LD r, m` (R246) -/
  | ld (r : Nibble) (m : DAddr)
  /-- `ST m, r` (R247) -/
  | st (m : DAddr) (r : Nibble)
  /-- `MOV @r, m` (R248) -/
  | movIndDst (r : Nibble) (m : DAddr)
  /-- `MOV m, @r` (R249) -/
  | movIndSrc (m : DAddr) (r : Nibble)
  /-- `MOV m, #n4` (R250) -/
  | movI (m : DAddr) (n4 : Nibble)
  /-- `MOVT DBF, @AR` (R251) -/
  | movt
  /-- `PUSH AR` (R252) -/
  | pushAr
  /-- `POP AR` (R253) -/
  | popAr
  /-- `PEEK WR, rf` (R254) -/
  | peek (rf : DAddr)
  /-- `POKE rf, WR` (R255) -/
  | poke (rf : DAddr)
  /-- `GET DBF, p` (R256) -/
  | get (p : DAddr)
  /-- `PUT p, DBF` (R257) -/
  | put (p : DAddr)
  /-- `BR addr`, page 0 (R281) -/
  | brPage0 (addr : BitVec 11)
  /-- `BR addr`, page 1 (R281) -/
  | brPage1 (addr : BitVec 11)
  /-- `BR @AR` (R282) -/
  | brAr
  /-- `CALL addr` (R283) -/
  | call (addr : BitVec 11)
  /-- `CALL @AR` (R284) -/
  | callAr
  /-- `RET` (R285) -/
  | ret
  /-- `RETSK` (R286) -/
  | retsk
  /-- `RETI` (R287) -/
  | reti
  /-- `EI` (R300) -/
  | ei
  /-- `DI` (R301) -/
  | di
  /-- `STOP s` (R302) -/
  | stop (s : Nibble)
  /-- `HALT h` (R303) -/
  | halt (h : Nibble)
  /-- `NOP` (R304) -/
  | nop
deriving DecidableEq, Repr

end Sys2Proof
end

