-- ==== Sys2Proof/WellFormed.lean ====
section
/-! DEFINITION. Which instructions exist on a part. Every operand is a bit vector of its field's width (R142), so the only
thing left to check is the part: the page-1 BR exists where the program counter has bit 11 (R143 note, R147, R162 (c)). -/

namespace Sys2Proof

/-- The instruction exists on part `p` (R143, R147). -/
def Instr.wf (p : Part) : Instr → Bool
  | .brPage1 _ => p.pcw == 12
  | .addR _ _ => true
  | .addI _ _ => true
  | .addcR _ _ => true
  | .addcI _ _ => true
  | .incAr => true
  | .incIx => true
  | .subR _ _ => true
  | .subI _ _ => true
  | .subcR _ _ => true
  | .subcI _ _ => true
  | .orR _ _ => true
  | .orI _ _ => true
  | .andR _ _ => true
  | .andI _ _ => true
  | .xorR _ _ => true
  | .xorI _ _ => true
  | .skt _ _ => true
  | .skf _ _ => true
  | .ske _ _ => true
  | .skne _ _ => true
  | .skge _ _ => true
  | .sklt _ _ => true
  | .rorc _ => true
  | .ld _ _ => true
  | .st _ _ => true
  | .movIndDst _ _ => true
  | .movIndSrc _ _ => true
  | .movI _ _ => true
  | .movt => true
  | .pushAr => true
  | .popAr => true
  | .peek _ => true
  | .poke _ => true
  | .get _ => true
  | .put _ => true
  | .brPage0 _ => true
  | .brAr => true
  | .call _ => true
  | .callAr => true
  | .ret => true
  | .retsk => true
  | .reti => true
  | .ei => true
  | .di => true
  | .stop _ => true
  | .halt _ => true
  | .nop => true

end Sys2Proof
end

