-- ==== Sys2Proof/Decode.lean ====
section
/-! DEFINITION. Decoding (R148), total on every word of every part, and the encoder (R145). -/

namespace Sys2Proof

/-- Why a word is not an instruction (R162). -/
inductive DecodeError where
  /-- R162 (a): operation codes 01110B, 01111B, 10111B -/
  | blankOpcode
  /-- R162 (b): a word of group 00111B that is no row of R144 -/
  | unassignedGroup
  /-- R162 (c): the page-1 BR on a part whose PC has no bit 11 -/
  | pageOneAbsent
deriving DecidableEq, Repr

/-- `bits[15:11]`, the operation code (R140). -/
def wordOp (w : Word) : BitVec 5 := w.extractLsb' 11 5

/-- `bits[10:4]`, the data-memory operand `m` (R142). -/
def wordM (w : Word) : DAddr := w.extractLsb' 4 7

/-- `bits[3:0]`: `r`, `n4`, `n`, `s` or `h` (R142). -/
def wordLow (w : Word) : Nibble := w.extractLsb' 0 4

/-- `bits[10:0]`, the operand `addr` (R142). -/
def wordAddr (w : Word) : BitVec 11 := w.extractLsb' 0 11

/-- `bits[10:8]` (R144). -/
def wordHigh (w : Word) : BitVec 3 := w.extractLsb' 8 3

/-- `bits[7:4]`, the sub-operation of group `G` (R144). -/
def wordSub (w : Word) : Nibble := w.extractLsb' 4 4

/-- `bits[10:8] : bits[3:0]`, a register-file or peripheral address (R142). -/
def wordRf (w : Word) : DAddr := wordHigh w ++ wordLow w

/-- Group `G` (R144): `high` is `bits[10:8]`, `low` is `bits[3:0]`, `rf` both together. -/
def decodeGroup (sub : Nibble) (high : BitVec 3) (low : Nibble) : Except DecodeError Instr :=
  match sub.toNat with
  | 0x1 => if high = 0 ∧ low = 0 then .ok .movt else .error .unassignedGroup
  | 0x2 => .ok (.poke (high ++ low))
  | 0x3 => .ok (.peek (high ++ low))
  | 0x4 => if high = 0 ∧ low = 0 then .ok .brAr else .error .unassignedGroup
  | 0x5 => if high = 0 ∧ low = 0 then .ok .callAr else .error .unassignedGroup
  | 0x7 => if high = 0 then .ok (.rorc low) else .error .unassignedGroup
  | 0x8 => if high = 0 ∧ low = 0 then .ok .incIx else .error .unassignedGroup
  | 0x9 => if high = 0 ∧ low = 0 then .ok .incAr else .error .unassignedGroup
  | 0xA => .ok (.put (high ++ low))
  | 0xB => .ok (.get (high ++ low))
  | 0xC => if high = 0 ∧ low = 0 then .ok .popAr else .error .unassignedGroup
  | 0xD => if high = 0 ∧ low = 0 then .ok .pushAr else .error .unassignedGroup
  | 0xE =>
    if low = 0 then
      match high.toNat with
      | 0 => .ok .ret
      | 1 => .ok .retsk
      | 4 => .ok .reti
      | _ => .error .unassignedGroup
    else .error .unassignedGroup
  | 0xF =>
    match high.toNat with
    | 0 => if low = 0 then .ok .ei else .error .unassignedGroup
    | 1 => if low = 0 then .ok .di else .error .unassignedGroup
    | 2 => .ok (.stop low)
    | 3 => .ok (.halt low)
    | 4 => if low = 0 then .ok .nop else .error .unassignedGroup
    | _ => .error .unassignedGroup
  | _ => .error .unassignedGroup

/-- Decoding of a fetched word on part `p` (R143, R148). -/
def decode (p : Part) (w : Word) : Except DecodeError Instr :=
  match (wordOp w).toNat with
  | 0x00 => .ok (.addR (wordLow w) (wordM w))
  | 0x01 => .ok (.subR (wordLow w) (wordM w))
  | 0x02 => .ok (.addcR (wordLow w) (wordM w))
  | 0x03 => .ok (.subcR (wordLow w) (wordM w))
  | 0x04 => .ok (.andR (wordLow w) (wordM w))
  | 0x05 => .ok (.xorR (wordLow w) (wordM w))
  | 0x06 => .ok (.orR (wordLow w) (wordM w))
  | 0x07 => decodeGroup (wordSub w) (wordHigh w) (wordLow w)
  | 0x08 => .ok (.ld (wordLow w) (wordM w))
  | 0x09 => .ok (.ske (wordM w) (wordLow w))
  | 0x0A => .ok (.movIndDst (wordLow w) (wordM w))
  | 0x0B => .ok (.skne (wordM w) (wordLow w))
  | 0x0C => .ok (.brPage0 (wordAddr w))
  | 0x0D => if p.pcw = 12 then .ok (.brPage1 (wordAddr w)) else .error .pageOneAbsent
  | 0x10 => .ok (.addI (wordM w) (wordLow w))
  | 0x11 => .ok (.subI (wordM w) (wordLow w))
  | 0x12 => .ok (.addcI (wordM w) (wordLow w))
  | 0x13 => .ok (.subcI (wordM w) (wordLow w))
  | 0x14 => .ok (.andI (wordM w) (wordLow w))
  | 0x15 => .ok (.xorI (wordM w) (wordLow w))
  | 0x16 => .ok (.orI (wordM w) (wordLow w))
  | 0x18 => .ok (.st (wordM w) (wordLow w))
  | 0x19 => .ok (.skge (wordM w) (wordLow w))
  | 0x1A => .ok (.movIndSrc (wordM w) (wordLow w))
  | 0x1B => .ok (.sklt (wordM w) (wordLow w))
  | 0x1C => .ok (.call (wordAddr w))
  | 0x1D => .ok (.movI (wordM w) (wordLow w))
  | 0x1E => .ok (.skt (wordM w) (wordLow w))
  | 0x1F => .ok (.skf (wordM w) (wordLow w))
  | _ => .error .blankOpcode

/-- Formats `RM` and `MI`: operation code, `m`, low nibble (R141). -/
def encodeM (op : BitVec 5) (m : DAddr) (low : Nibble) : Word := op ++ m ++ low

/-- Format `A`: operation code and address (R141). -/
def encodeA (op : BitVec 5) (addr : BitVec 11) : Word := op ++ addr

/-- Format `G`: 00111B, `bits[10:8]`, sub-operation, `bits[3:0]` (R141, R144). -/
def encodeG (high : BitVec 3) (sub low : Nibble) : Word := (0x07 : BitVec 5) ++ high ++ sub ++ low

/-- Format `G` with a 7-bit register-file or peripheral address split in two (R142). -/
def encodeRf (sub : Nibble) (a : DAddr) : Word := encodeG (a.extractLsb' 4 3) sub (a.extractLsb' 0 4)

/-- The word of an instruction (R145). -/
def encode : Instr → Word
  | .addR r m => encodeM 0x00 m r
  | .addI m n4 => encodeM 0x10 m n4
  | .addcR r m => encodeM 0x02 m r
  | .addcI m n4 => encodeM 0x12 m n4
  | .incAr => encodeG 0 0x9 0
  | .incIx => encodeG 0 0x8 0
  | .subR r m => encodeM 0x01 m r
  | .subI m n4 => encodeM 0x11 m n4
  | .subcR r m => encodeM 0x03 m r
  | .subcI m n4 => encodeM 0x13 m n4
  | .orR r m => encodeM 0x06 m r
  | .orI m n4 => encodeM 0x16 m n4
  | .andR r m => encodeM 0x04 m r
  | .andI m n4 => encodeM 0x14 m n4
  | .xorR r m => encodeM 0x05 m r
  | .xorI m n4 => encodeM 0x15 m n4
  | .skt m n => encodeM 0x1E m n
  | .skf m n => encodeM 0x1F m n
  | .ske m n4 => encodeM 0x09 m n4
  | .skne m n4 => encodeM 0x0B m n4
  | .skge m n4 => encodeM 0x19 m n4
  | .sklt m n4 => encodeM 0x1B m n4
  | .rorc r => encodeG 0 0x7 r
  | .ld r m => encodeM 0x08 m r
  | .st m r => encodeM 0x18 m r
  | .movIndDst r m => encodeM 0x0A m r
  | .movIndSrc m r => encodeM 0x1A m r
  | .movI m n4 => encodeM 0x1D m n4
  | .movt => encodeG 0 0x1 0
  | .pushAr => encodeG 0 0xD 0
  | .popAr => encodeG 0 0xC 0
  | .peek rf => encodeRf 0x3 rf
  | .poke rf => encodeRf 0x2 rf
  | .get p => encodeRf 0xB p
  | .put p => encodeRf 0xA p
  | .brPage0 addr => encodeA 0x0C addr
  | .brPage1 addr => encodeA 0x0D addr
  | .brAr => encodeG 0 0x4 0
  | .call addr => encodeA 0x1C addr
  | .callAr => encodeG 0 0x5 0
  | .ret => encodeG 0 0xE 0
  | .retsk => encodeG 1 0xE 0
  | .reti => encodeG 4 0xE 0
  | .ei => encodeG 0 0xF 0
  | .di => encodeG 1 0xF 0
  | .stop s => encodeG 2 0xF s
  | .halt h => encodeG 3 0xF h
  | .nop => encodeG 4 0xF 0

/-- A decoded instruction, with the reason of a refusal dropped. -/
def decodeOption (p : Part) (w : Word) : Option Instr :=
  match decode p w with
  | .ok i => some i
  | .error _ => none

/-- The host's question on the opcode table: the instruction in the low `nbits` bits of `w`, on the µPD17149. -/
def decodeTableWord (nbits w : Nat) : Option Instr :=
  decodeOption .upd17149 (BitVec.ofNat 16 (w % 2 ^ nbits))

end Sys2Proof
end

