-- ==== Sys2Proof/Machine/State.lean ====
section
/-! DEFINITION. The machine's state as plain data (R20), the reasons a step can stop, and the state after reset (R87). -/

namespace Sys2Proof.Machine

/-- A memory: (address, byte) pairs, addresses strictly rising, no entry equal to 0, which is what an unlisted address
reads as (`Memory.wf`, `memGet`). RAM keys are nibble addresses 00H-6DH with the nibble in the low four bits; program
memory holds word `a` at byte keys `2a` (bits 7-0) and `2a + 1` (bits 15-8). Logs 4 and 5. -/
abbrev Memory := List Host.Cell

/-- The program status word PSWORD (R40). -/
structure Psword where
  /-- decimal arithmetic (R41) -/
  bcd : Bool
  /-- results are not stored (R42) -/
  cmp : Bool
  /-- carry or borrow (R43) -/
  cy : Bool
  /-- zero (R43) -/
  z : Bool
  /-- index modification (R37) -/
  ixe : Bool
deriving DecidableEq, Repr

/-- PSWORD after reset and after an interrupt acceptance (R40). -/
def Psword.zero : Psword := ⟨false, false, false, false, false⟩

/-- The five address-stack registers (R25). -/
structure AddrStack where
  a0 : PAddr
  a1 : PAddr
  a2 : PAddr
  a3 : PAddr
  a4 : PAddr
deriving DecidableEq, Repr

/-- One bit per interrupt source: request flags, enable flags, the delayed copy (R441, R88). -/
structure IrqSet where
  /-- INT pin: IRQ, IP -/
  int : Bool
  /-- timer 0: IRQTM0, IPTM0 -/
  tm0 : Bool
  /-- timer 1: IRQTM1, IPTM1 -/
  tm1 : Bool
  /-- basic interval timer: IRQBTM, IPBTM -/
  btm : Bool
  /-- serial interface: IRQSIO, IPSIO -/
  sio : Bool
deriving DecidableEq, Repr

/-- Output latches and pin-control registers of the ports (R31, R50-R52, R57, R58, R63, R64). -/
structure Ports where
  latA : Nibble
  latB : Nibble
  latC : Nibble
  latD : Nibble
  latE : Nibble
  /-- RF 0CH: P0EGPU, P0BGPU, P0AGPU in bits 2, 1, 0 (R51) -/
  gpu : BitVec 3
  /-- RF 2CH: P0EGIO, P0BGIO, P0AGIO in bits 2, 1, 0 (R64) -/
  gio : BitVec 3
  /-- RF 0DH: P0DBPU3-0 (R52) -/
  dbpu : Nibble
  /-- RF 1BH: P0C3IDI-P0C0IDI (R57) -/
  cidi : Nibble
  /-- RF 1CH: P0CBIO3-0 (R58) -/
  cbio : Nibble
  /-- RF 2BH: P0DBIO3-0 (R63) -/
  dbio : Nibble
  /-- RF 0BH bit 3 (R50) -/
  tm1osel : Bool
  /-- RF 0BH bit 0 (R50) -/
  sioen : Bool
deriving DecidableEq, Repr

/-- An 8-bit timer counter (R54, R55, R361). -/
structure Timer where
  /-- TMnEN -/
  en : Bool
  /-- TMnCK1:TMnCK0 -/
  ck : BitVec 2
  /-- the count register TMnC -/
  count : Byte
  /-- the modulo register TMnM -/
  modulo : Byte
deriving DecidableEq, Repr

/-- The basic interval timer and the watchdog (R49, R56, R80, R81). -/
structure Btm where
  /-- BTMISEL -/
  isel : Bool
  /-- BTMCK1:BTMCK0 -/
  ck : BitVec 2
  /-- BTMC -/
  cnt : BitVec 7
  /-- WDT_EN -/
  wdtEn : Bool
  /-- WDT_DIV -/
  wdtDiv : Bool
  /-- WDT_CARRY -/
  wdtCarry : Bool
deriving DecidableEq, Repr

/-- The conversion sequencer (R83): idle, or a conversion with the instruction cycles since its start, the starting
instruction's own cycle counted, and whether its result has become unspecified (D24; a field of the model). -/
inductive AdcSeq where
  | idle
  | continuous (n : Nat) (tainted : Bool)
  | single (n : Nat) (tainted : Bool)
deriving DecidableEq, Repr

/-- The A/D converter (R60-R62, R83, R390). -/
structure Adc where
  /-- ADCSOFT -/
  soft : Bool
  /-- ADCCMP -/
  cmp : Bool
  /-- ADCEND -/
  fin : Bool
  /-- ADCCH3-0 -/
  ch : Nibble
  /-- ADCR -/
  adcr : Byte
  /-- the sequencer -/
  seq : AdcSeq
deriving DecidableEq, Repr

/-- The serial interface (R48, R82, R410). -/
structure Sio where
  /-- SIOTS: a transfer is in progress -/
  ts : Bool
  /-- SIOHIZ -/
  hiz : Bool
  /-- SIOCK1:SIOCK0 -/
  ck : BitVec 2
  /-- SIOSFR -/
  sfr : Byte
  /-- SIO_CNT -/
  cnt : BitVec 3
  /-- SO_LATCH -/
  soLatch : Bool
  /-- the falling edge of the present serial clock has passed (log 16) -/
  sckLow : Bool
  /-- the previous level of the SCK pin, for an external clock (log 16) -/
  sckPrev : Bool
  /-- the data of the transfer in progress are unspecified (D25; a field of the model) -/
  tainted : Bool
deriving DecidableEq, Repr

/-- What the outside drives on an input: low, high, or nothing. -/
inductive Drive where
  | low | high | openPin
deriving DecidableEq, Repr

/-- What the outside drives on the four pins of a port: where `driven` has a 1, the level in `level`. -/
structure PortDrive where
  driven : Nibble
  level : Nibble
deriving DecidableEq, Repr

/-- One sample of the outside world (R86), constant over an instruction cycle. Log 2. -/
structure Pins where
  p0a : PortDrive
  p0b : PortDrive
  p0c : PortDrive
  p0d : PortDrive
  p0e : PortDrive
  /-- P0F0 / RLS -/
  p0f0 : Drive
  /-- P0F1 / VREF -/
  p0f1 : Drive
  /-- INT, after the noise filter (R450, D20) -/
  int : Drive
  /-- RESET, active low (R471) -/
  reset : Drive
  /-- `AnaHigher(0, code)` holds exactly for the codes below this (R390) -/
  ana0 : Nat
  ana1 : Nat
  ana2 : Nat
  ana3 : Nat
  /-- VDD is at or below VPOC, as the power-on-clear circuit has detected it (R502) -/
  vddLow : Bool
  /-- a voltage above VDD on RESET or P0F0/RLS (R512) -/
  overVdd : Bool
  /-- the programming voltage on VPP of a µPD17P149 (R530) -/
  vppProgram : Bool
deriving DecidableEq, Repr

/-- What the oscillation-stabilisation wait follows (R464, R501). -/
inductive WaitFor where
  /-- a reset of column `RST_A` -/
  | resetA
  /-- a reset of column `RST_B` -/
  | resetB
  /-- a release from STOP mode -/
  | stopRelease
deriving DecidableEq, Repr

/-- MODE (R85). -/
inductive Mode where
  | run
  /-- HALT with its release condition (R460) -/
  | halt (h : Nibble)
  /-- STOP with its release condition (R460) -/
  | stop (s : Nibble)
  /-- waiting for timer 1, after `grow` more cycles of oscillator growth (R464, R501) -/
  | wait (w : WaitFor) (grow : Nat)
  /-- RESET or POC is asserted (R501); `standby` selects column `RST_B`, `oscStopped` says OSC_GROW will be needed -/
  | held (standby oscStopped : Bool)
deriving DecidableEq, Repr

/-- The machine never stops with a fault: no instruction traps (R440, R481) and every address of every space exists
(R104, R122). A closed type without constructors. -/
inductive Fault where
deriving DecidableEq, Repr

/-- Why the model refuses a step: each is a point where the spec itself says refuse. All are safe: the model stops where
the hardware does something the manual does not describe. -/
inductive Refusal where
  /-- Raised by an arm of `exec` whose instruction has no meaning yet; none has. Safe. -/
  | notModelled (mnemonic : String)
  /-- Raised by the step on an executed word that is no instruction (R162, D6). Safe. -/
  | unassignedEncoding
  /-- Raised by GET and PUT on an unassigned peripheral address (R116, R117, D8). Safe. -/
  | unassignedPeripheral
  /-- Raised by PUT of 00H to a modulo register (R363, D13). Safe. -/
  | moduloZero
  /-- Raised by STOP and HALT with a prohibited operand (R302, R303, D14). Safe. -/
  | standbyOperand
  /-- Raised by a STOP that would enter the mode while timer 1 counts timer 0 (R464, D26). Safe. -/
  | stopClockedByTimer0
  /-- Raised by a POKE that sets IEGMD to 11 (R450, D9). Safe. -/
  | edgeModeReserved
  /-- Raised by a POKE that sets SIOTS while SIOEN is 0 (R413, D25). Safe. -/
  | serialDisabled
  /-- Raised by the step in a voltage above VDD on RESET or P0F0 (R512). Safe. -/
  | testMode
  /-- Raised by the step in PROM programming mode of the µPD17P149 (R530). Safe. -/
  | promMode
deriving DecidableEq, Repr

/-- The whole state (R20). -/
structure State where
  /-- the parameters of the chip (92_eei_decisions.md); constant -/
  cfg : Config
  /-- program memory (R100) -/
  rom : Memory
  /-- general RAM 00H-6DH (R29, R30) -/
  ram : Memory
  /-- PC (R21) -/
  pc : PAddr
  /-- SP (R26) -/
  sp : BitVec 3
  /-- ASR (R25) -/
  asr : AddrStack
  /-- INTSK, newest first; its length is ISKLVL (R27) -/
  intsk : List Psword
  /-- AR (R34) -/
  ar : PAddr
  /-- WR (R35) -/
  wr : Nibble
  /-- IXM[2:0] : IXL, whose upper three bits are also MPL (R37, R38) -/
  ix : BitVec 7
  /-- MPE (R38) -/
  mpe : Bool
  /-- the row address in RPL (R39) -/
  rpRow : BitVec 3
  /-- PSWORD (R40) -/
  psw : Psword
  /-- SKIP (R93) -/
  skip : Bool
  /-- INTE (R75) -/
  inte : Bool
  /-- EI_PENDING (R76) -/
  eiPending : Bool
  /-- MODE (R85) -/
  mode : Mode
  /-- ports (R31) -/
  ports : Ports
  /-- timer 0 (R361) -/
  tm0 : Timer
  /-- timer 1 (R361) -/
  tm1 : Timer
  /-- TM1OUT_FF (R79) -/
  tm1Out : Bool
  /-- basic interval timer and watchdog (R380) -/
  btm : Btm
  /-- A/D converter (R390) -/
  adc : Adc
  /-- serial interface (R410) -/
  sio : Sio
  /-- request flags (R442) -/
  irq : IrqSet
  /-- enable flags (R443) -/
  ip : IrqSet
  /-- IRQ_DLY (R88) -/
  irqDly : IrqSet
  /-- IEGMD1:IEGMD0 (R59) -/
  iegmd : BitVec 2
  /-- the edge detector's previous INT level (R84) -/
  intPrev : Bool
  /-- the prescaler, counting instruction cycles (R78, R360) -/
  prescaler : BitVec 10
  /-- the present sample of the outside (R86) -/
  pins : Pins
  /-- the samples to come, one an instruction cycle; when none is left the last one stays (log 2) -/
  inputs : List Pins
  /-- the model's own: an internal reset was raised in this instruction cycle (log 20) -/
  rstSig : Bool
  /-- the model's own: the counter the free values are drawn with (log 3) -/
  freeIdx : Nat
deriving DecidableEq, Repr

/-- No request, no enable. -/
def IrqSet.none : IrqSet := ⟨false, false, false, false, false⟩

/-- The request flags after `RST_A`: IRQTM1 and IRQBTM are 1 (R443). -/
def IrqSet.afterResetA : IrqSet := ⟨false, false, true, true, false⟩

/-- An outside world at rest: port pins and RLS high, INT low, RESET inactive, no analog input (DESIGN CHOICE, log 2). -/
def Pins.idle : Pins where
  p0a := ⟨0xF, 0xF⟩
  p0b := ⟨0xF, 0xF⟩
  p0c := ⟨0xF, 0xF⟩
  p0d := ⟨0xF, 0xF⟩
  p0e := ⟨0xF, 0xF⟩
  p0f0 := .high
  p0f1 := .high
  int := .low
  reset := .high
  ana0 := 0
  ana1 := 0
  ana2 := 0
  ana3 := 0
  vddLow := false
  overVdd := false
  vppProgram := false

/-- The machine right after `Reset(RST_A)` (R87, R503): the wait for timer 1 is about to begin (R501). Where R87 gives no
value, the value is a DESIGN CHOICE (logs 4 and 7). -/
def State.reset : State where
  cfg := Config.default
  rom := []
  ram := []
  pc := 0
  sp := 5
  asr := ⟨0, 0, 0, 0, 0⟩
  intsk := []
  ar := 0
  wr := 0
  ix := 0
  mpe := false
  rpRow := 0
  psw := Psword.zero
  skip := false
  inte := false
  eiPending := false
  mode := .wait .resetA 0
  ports := ⟨0, 0, 0, 0, 0, 0, 0, 0, 0, 0, 0, false, false⟩
  tm0 := ⟨false, 0, 0, 0xFF⟩
  tm1 := ⟨true, 0, 0, 0xFF⟩
  tm1Out := false
  btm := ⟨false, 0, 0, false, false, false⟩
  adc := ⟨false, false, false, 0, 0, .idle⟩
  sio := ⟨false, false, 0, 0, 0, false, false, false, false⟩
  irq := IrqSet.afterResetA
  ip := IrqSet.none
  irqDly := IrqSet.afterResetA
  iegmd := 0
  intPrev := false
  prescaler := 0
  pins := Pins.idle
  inputs := []
  rstSig := false
  freeIdx := 0

end Sys2Proof.Machine
end

