-- ==== Sys2Proof/Machine/Memory.lean ====
section
/-! DEFINITION. Memory as a canonical list of cells, and its two views: RAM nibbles and program-memory words. -/

namespace Sys2Proof.Machine

/-- The byte at key `a`; an unlisted key reads 0 (DESIGN CHOICE, unsafe, logs 4 and 5). -/
def memGet (m : Memory) (a : Nat) : Byte :=
  match m with
  | [] => 0
  | c :: rest => if c.1 = a then c.2 else memGet rest a

/-- Every entry of key `a` removed. -/
def memErase (m : Memory) (a : Nat) : Memory := m.filter (fun c => decide (c.1 ≠ a))

/-- A cell put before the first cell of a greater key. -/
def memInsert (m : Memory) (a : Nat) (v : Byte) : Memory :=
  match m with
  | [] => [(a, v)]
  | c :: rest => if a < c.1 then (a, v) :: c :: rest else c :: memInsert rest a v

/-- The byte at key `a` becomes `v`; writing 0 unlists the key, so that equal memories are equal lists. -/
def memSet (m : Memory) (a : Nat) (v : Byte) : Memory :=
  if v = 0 then memErase m a else memInsert (memErase m a) a v

/-- `n` keys from `a` up, each at the value `f` gives it; the rest of `m` stays. -/
def memFill (f : Nat → Byte) (a n : Nat) (m : Memory) : Memory :=
  match n with
  | 0 => m
  | k + 1 => memFill f a k (memSet m (a + k) (f (a + k)))

/-- The canonical form: keys strictly rising, no listed 0. -/
def Memory.wf (m : Memory) : Bool :=
  match m with
  | [] => true
  | c :: rest =>
    decide (c.2 ≠ 0) && (match rest with
      | [] => true
      | d :: _ => decide (c.1 < d.1)) && Memory.wf rest

/-- Every key is below `n`. -/
def Memory.below (m : Memory) (n : Nat) : Bool := m.all (fun c => decide (c.1 < n))

/-- Every cell holds a nibble. -/
def Memory.nibbles (m : Memory) : Bool := m.all (fun c => decide (c.2.toNat < 16))

/-- The RAM nibble at a data address (R104, first row). -/
def ramGet (m : Memory) (a : DAddr) : Nibble := (memGet m a.toNat).setWidth 4

/-- The RAM nibble at a data address written (R105, first row). -/
def ramSet (m : Memory) (a : DAddr) (v : Nibble) : Memory := memSet m a.toNat (v.setWidth 8)

/-- `RomRead(a)` (R100): the word at `a`; bits of `a` beyond the part's program counter do not exist (R23). -/
def romWord (m : Memory) (a : PAddr) : Word := memGet m (2 * a.toNat + 1) ++ memGet m (2 * a.toNat)

/-- Program memory with word `w` at `a`: what loading a program does, never an instruction (R102). -/
def romLoad (m : Memory) (a : PAddr) (w : Word) : Memory :=
  memSet (memSet m (2 * a.toNat) (w.extractLsb' 0 8)) (2 * a.toNat + 1) (w.extractLsb' 8 8)

end Sys2Proof.Machine
end

