-- ==== Sys2Proof/Machine/Ports.lean ====
section
/-! DEFINITION. Free draws, pin levels (R329, R331), what a read of a port register returns (R327) and a write does (R328). -/

namespace Sys2Proof.Machine

/-- A free value of width `w`, at the state's present draw. Log 3. -/
def State.draw (s : State) (w : Nat) (site : FreeSite) : BitVec w := Config.free w site s.freeIdx

/-- The `k`-th free value of one draw. Log 3. -/
def State.drawAt (s : State) (w : Nat) (site : FreeSite) (k : Nat) : BitVec w :=
  Config.free w site (s.freeIdx * 128 + k)

/-- A free bit. -/
def State.drawBit (s : State) (site : FreeSite) : Bool := Config.freeBit site s.freeIdx

/-- The `k`-th free bit of one draw. -/
def State.drawBitAt (s : State) (site : FreeSite) (k : Nat) : Bool := Config.freeBit site (s.freeIdx * 128 + k)

/-- The level of a pin the chip does not drive: the outside's, else the pull-up's 1, else free (R331, D20). -/
def resolvePin (d : Drive) (pullup free : Bool) : Bool :=
  match d with
  | .low => false
  | .high => true
  | .openPin => pullup || free

/-- The INT level after the noise filter (R450, R53). -/
def pinInt (s : State) : Bool :=
  resolvePin s.pins.int (s.cfg.option s.cfg.optIntPullup) (s.drawBitAt .pin 0)

/-- The level of P0F0 / RLS (R326). -/
def pinP0F0 (s : State) : Bool :=
  resolvePin s.pins.p0f0 (s.cfg.option s.cfg.optP0F0Pullup) (s.drawBitAt .pin 1)

/-- The level of P0F1 (R326). -/
def pinP0F1 (s : State) : Bool :=
  resolvePin s.pins.p0f1 (s.cfg.option s.cfg.optP0F1Pullup) (s.drawBitAt .pin 2)

/-- The level of RESET (R471). -/
def pinReset (s : State) : Bool :=
  resolvePin s.pins.reset (s.cfg.option s.cfg.optResetPullup) (s.drawBitAt .pin 3)

/-- Four equal bits: a group flag spread over its pins (R320). -/
def spread (b : Bool) : Nibble := if b then 0xF else 0

/-- The levels of a port's four pins: the chip's drive where it drives, else as `resolvePin` (R331). -/
def portLevels (chipDrives chipLevel : Nibble) (ext : PortDrive) (pullup free : Nibble) : Nibble :=
  (chipDrives &&& chipLevel) |||
    (~~~chipDrives &&& ((ext.driven &&& ext.level) ||| (~~~ext.driven &&& (pullup ||| free))))

/-- While the chip is held in reset every port pin is an input (R501). -/
def pinsReleased (s : State) : Bool :=
  match s.mode with
  | .held _ _ => true
  | .run => false
  | .halt _ => false
  | .stop _ => false
  | .wait _ _ => false

/-- The bits of a port whose output the chip enables, none while it is held in reset. -/
def outputEnable (s : State) (mask : Nibble) : Nibble := if pinsReleased s then 0 else mask

/-- P0D bits in output function (R329); the same bits read the latch (R327). -/
def portDOutputs (s : State) : Nibble :=
  nibbleOf (s.ports.tm1osel || s.ports.dbio.getLsbD 3)
    (!s.ports.sioen && s.ports.dbio.getLsbD 2)
    (if s.ports.sioen then !s.sio.hiz else s.ports.dbio.getLsbD 1)
    (if s.ports.sioen then decide (s.sio.ck ≠ 0) else s.ports.dbio.getLsbD 0)

/-- What the P0D outputs carry: TM1OUT_FF, the latch, SO_LATCH, the internal serial clock, idle high (R329, R411). -/
def portDValue (s : State) : Nibble :=
  nibbleOf (if s.ports.tm1osel then s.tm1Out else s.ports.latD.getLsbD 3)
    (s.ports.latD.getLsbD 2)
    (if s.ports.sioen then s.sio.soLatch else s.ports.latD.getLsbD 1)
    (if s.ports.sioen then !(s.sio.ts && s.sio.sckLow) else s.ports.latD.getLsbD 0)

/-- The levels of P0A3-P0A0: push-pull (R329). -/
def pinsA (s : State) : Nibble :=
  portLevels (outputEnable s (spread (s.ports.gio.getLsbD 0))) s.ports.latA s.pins.p0a
    (spread (s.ports.gpu.getLsbD 0)) (s.drawAt 4 .pin 4)

/-- The levels of P0B3-P0B0: push-pull (R329). -/
def pinsB (s : State) : Nibble :=
  portLevels (outputEnable s (spread (s.ports.gio.getLsbD 1))) s.ports.latB s.pins.p0b
    (spread (s.ports.gpu.getLsbD 1)) (s.drawAt 4 .pin 5)

/-- The levels of P0C3-P0C0: push-pull, no pull-up (R323, R329). -/
def pinsC (s : State) : Nibble :=
  portLevels (outputEnable s s.ports.cbio) s.ports.latC s.pins.p0c 0 (s.drawAt 4 .pin 6)

/-- The levels of P0D3-P0D0: open drain, only a 0 is driven (R329). -/
def pinsD (s : State) : Nibble :=
  portLevels (outputEnable s (portDOutputs s &&& ~~~portDValue s)) 0 s.pins.p0d s.ports.dbpu (s.drawAt 4 .pin 7)

/-- The levels of P0E3-P0E0: open drain (R329). -/
def pinsE (s : State) : Nibble :=
  portLevels (outputEnable s (spread (s.ports.gio.getLsbD 2) &&& ~~~s.ports.latE)) 0 s.pins.p0e
    (spread (s.ports.gpu.getLsbD 2)) (s.drawAt 4 .pin 8)

/-- Latch where `fromLatch` has a 1, pin elsewhere (R327). -/
def latchOrPin (fromLatch latch levels : Nibble) : Nibble := (fromLatch &&& latch) ||| (~~~fromLatch &&& levels)

/-- `PortRead(70H)` (R327). -/
def readP0A (s : State) : Nibble := latchOrPin (spread (s.ports.gio.getLsbD 0)) s.ports.latA (pinsA s)

/-- `PortRead(71H)` (R327). -/
def readP0B (s : State) : Nibble := latchOrPin (spread (s.ports.gio.getLsbD 1)) s.ports.latB (pinsB s)

/-- `PortRead(72H)`: an output bit and an analog input read the latch (R327). -/
def readP0C (s : State) : Nibble := latchOrPin (s.ports.cbio ||| s.ports.cidi) s.ports.latC (pinsC s)

/-- `PortRead(73H)` (R327). -/
def readP0D (s : State) : Nibble := latchOrPin (portDOutputs s) s.ports.latD (pinsD s)

/-- `PortRead(6EH)` (R327). -/
def readP0E (s : State) : Nibble := latchOrPin (spread (s.ports.gio.getLsbD 2)) s.ports.latE (pinsE s)

/-- `PortRead(6FH)`: two input pins; bit 1 reads 0 while any P0CnIDI is 1 (R327, R326). -/
def readP0F (s : State) : Nibble :=
  nibbleOf false false (decide (s.ports.cidi = 0) && pinP0F1 s) (pinP0F0 s)

/-- `PortWrite(70H, v)`: the latch, all four bits, whatever the direction (R328). -/
def writeP0A (s : State) (v : Nibble) : State := { s with ports := { s.ports with latA := v } }

/-- `PortWrite(71H, v)` (R328). -/
def writeP0B (s : State) (v : Nibble) : State := { s with ports := { s.ports with latB := v } }

/-- `PortWrite(72H, v)` (R328). -/
def writeP0C (s : State) (v : Nibble) : State := { s with ports := { s.ports with latC := v } }

/-- `PortWrite(73H, v)` (R328). -/
def writeP0D (s : State) (v : Nibble) : State := { s with ports := { s.ports with latD := v } }

/-- `PortWrite(6EH, v)` (R328). -/
def writeP0E (s : State) (v : Nibble) : State := { s with ports := { s.ports with latE := v } }

end Sys2Proof.Machine
end

