-- ==== Sys2Proof/Machine/Ops.lean ====
section
/-! DEFINITION. The shared operations: data memory (R104, R105), the data buffer (R30), the address stack (R245), the reset
procedure (R470, R87), taking an interrupt (R445) and returning from one (R287). -/

namespace Sys2Proof.Machine

/-! ### Data memory -/

/-- What stands at a data-memory address of bank 0 (R28, R33). -/
inductive DLoc where
  | ram | p0e | p0f | p0a | p0b | p0c | p0d
  | ar3 | ar2 | ar1 | ar0 | wr | bank | ixh | ixm | ixl | rph | rpl | psw
deriving DecidableEq, Repr

/-- The map of bank 0 (R28, R33). -/
def dloc (a : DAddr) : DLoc :=
  match a.toNat with
  | 0x6E => .p0e
  | 0x6F => .p0f
  | 0x70 => .p0a
  | 0x71 => .p0b
  | 0x72 => .p0c
  | 0x73 => .p0d
  | 0x74 => .ar3
  | 0x75 => .ar2
  | 0x76 => .ar1
  | 0x77 => .ar0
  | 0x78 => .wr
  | 0x79 => .bank
  | 0x7A => .ixh
  | 0x7B => .ixm
  | 0x7C => .ixl
  | 0x7D => .rph
  | 0x7E => .rpl
  | 0x7F => .psw
  | _ => .ram

/-- The PSW nibble: CMP, CY, Z, IXE (R33, 7FH). -/
def Psword.nibble (p : Psword) : Nibble := nibbleOf p.cmp p.cy p.z p.ixe

/-- `MemRead(a, 4)` (R104). A read has no side effect. -/
def memRead (s : State) (a : DAddr) : Nibble :=
  match dloc a with
  | .ram => ramGet s.ram a
  | .p0e => readP0E s
  | .p0f => readP0F s
  | .p0a => readP0A s
  | .p0b => readP0B s
  | .p0c => readP0C s
  | .p0d => readP0D s
  | .ar3 => 0
  | .ar2 => s.ar.extractLsb' 8 4
  | .ar1 => s.ar.extractLsb' 4 4
  | .ar0 => s.ar.extractLsb' 0 4
  | .wr => s.wr
  | .bank => 0
  | .ixh => nibbleOf s.mpe false false false
  | .ixm => (0 : BitVec 1) ++ s.ix.extractLsb' 4 3
  | .ixl => s.ix.extractLsb' 0 4
  | .rph => 0
  | .rpl => s.rpRow ++ BitVec.ofBool s.psw.bcd
  | .psw => s.psw.nibble

/-- AR with the bits the part does not have kept 0 (R34, R44). -/
def setAr (s : State) (v : PAddr) : State := { s with ar := v &&& s.cfg.part.addrMask }

/-- `MemWrite(a, 4, v)` (R105): fixed-0 bits drop their part of `v`. -/
def memWrite (s : State) (a : DAddr) (v : Nibble) : State :=
  match dloc a with
  | .ram => { s with ram := ramSet s.ram a v }
  | .p0e => writeP0E s v
  | .p0f => s
  | .p0a => writeP0A s v
  | .p0b => writeP0B s v
  | .p0c => writeP0C s v
  | .p0d => writeP0D s v
  | .ar3 => s
  | .ar2 => setAr s (v ++ s.ar.extractLsb' 0 8)
  | .ar1 => { s with ar := s.ar.extractLsb' 8 4 ++ v ++ s.ar.extractLsb' 0 4 }
  | .ar0 => { s with ar := s.ar.extractLsb' 4 8 ++ v }
  | .wr => { s with wr := v }
  | .bank => s
  | .ixh => { s with mpe := v.getLsbD 3 }
  | .ixm => { s with ix := v.extractLsb' 0 3 ++ s.ix.extractLsb' 0 4 }
  | .ixl => { s with ix := s.ix.extractLsb' 4 3 ++ v }
  | .rph => s
  | .rpl => { s with rpRow := v.extractLsb' 1 3, psw := { s.psw with bcd := v.getLsbD 0 } }
  | .psw =>
    { s with psw := { s.psw with cmp := v.getLsbD 3, cy := v.getLsbD 2, z := v.getLsbD 1, ixe := v.getLsbD 0 } }

/-! ### The data buffer -/

/-- DBF, its 16 bits in 0CH-0FH, the lowest address the most significant nibble (R30, R118). -/
def dbfRead (s : State) : Word :=
  ramGet s.ram 0x0C ++ ramGet s.ram 0x0D ++ ramGet s.ram 0x0E ++ ramGet s.ram 0x0F

/-- DBF written whole (R30). -/
def dbfWrite (s : State) (w : Word) : State :=
  { s with ram :=
      ramSet (ramSet (ramSet (ramSet s.ram 0x0C (w.extractLsb' 12 4)) 0x0D (w.extractLsb' 8 4)) 0x0E
        (w.extractLsb' 4 4)) 0x0F (w.extractLsb' 0 4) }

/-- DBF1 : DBF0 written, DBF3 and DBF2 unchanged (R116). -/
def dbfWriteLow (s : State) (b : Byte) : State :=
  { s with ram := ramSet (ramSet s.ram 0x0E (b.extractLsb' 4 4)) 0x0F (b.extractLsb' 0 4) }

/-! ### Program memory -/

/-- `RomRead(a)` (R100). -/
def romRead (s : State) (a : PAddr) : Word := romWord s.rom a

/-- PC after a fetch: plus 1, modulo 2 to the PCW (R22, R23). -/
def nextPc (s : State) : PAddr := (s.pc + 1) &&& s.cfg.part.addrMask

/-- `PC <- target`, truncated to PCW bits (R11, R22). -/
def setPc (s : State) (target : PAddr) : State := { s with pc := target &&& s.cfg.part.addrMask }

/-! ### The address stack -/

/-- `ASR[k]`; there is no register beyond 4, so its value is free (R245). -/
def asrGet (s : State) (k : BitVec 3) : PAddr :=
  match k.toNat with
  | 0 => s.asr.a0
  | 1 => s.asr.a1
  | 2 => s.asr.a2
  | 3 => s.asr.a3
  | 4 => s.asr.a4
  | _ => s.drawAt 12 .addrStack 5 &&& s.cfg.part.addrMask

/-- `ASR[k] <- v`. -/
def AddrStack.put (t : AddrStack) (k : BitVec 3) (v : PAddr) : AddrStack :=
  match k.toNat with
  | 0 => { t with a0 := v }
  | 1 => { t with a1 := v }
  | 2 => { t with a2 := v }
  | 3 => { t with a3 := v }
  | 4 => { t with a4 := v }
  | _ => t

/-- `PushAddr(v)` (R245); `none` is the reset `RST_C/STACK`. -/
def pushAddr (s : State) (v : PAddr) : Option State :=
  if (s.sp - 1).toNat ≥ 6 then none
  else some { s with sp := s.sp - 1, asr := s.asr.put (s.sp - 1) (v &&& s.cfg.part.addrMask) }

/-- `PopAddr()` (R245): the value and the state after; `none` is the reset `RST_C/STACK`. -/
def popAddr (s : State) : Option (PAddr × State) :=
  if (s.sp + 1).toNat ≥ 6 then none else some (asrGet s s.sp, { s with sp := s.sp + 1 })

/-! ### Reset -/

/-- The columns of the reset table, the last in its two causes (R470, R471). -/
inductive ResetCause where
  /-- RESET or POC while operating -/
  | rstA
  /-- RESET or POC in a standby mode -/
  | rstB
  /-- watchdog overflow -/
  | wdt
  /-- address-stack overflow or underflow -/
  | stack
deriving DecidableEq, Repr

/-- Column `RST_C` (R470). -/
def ResetCause.isC (c : ResetCause) : Bool :=
  match c with
  | .rstA => false
  | .rstB => false
  | .wdt => true
  | .stack => true

/-- RAM after a reset: kept but for DBF by `RST_B`, every nibble free otherwise (R29, R30, R87). -/
def resetRam (c : ResetCause) (s : State) : Memory :=
  if c = .rstB then memFill (fun a => (s.drawAt 4 .ram a).setWidth 8) 0x0C 4 s.ram
  else memFill (fun a => (s.drawAt 4 .ram a).setWidth 8) 0 0x6E []

/-- The address stack after a reset: five free values of PCW bits (R25). -/
def resetAsr (s : State) : AddrStack where
  a0 := s.drawAt 12 .addrStack 0 &&& s.cfg.part.addrMask
  a1 := s.drawAt 12 .addrStack 1 &&& s.cfg.part.addrMask
  a2 := s.drawAt 12 .addrStack 2 &&& s.cfg.part.addrMask
  a3 := s.drawAt 12 .addrStack 3 &&& s.cfg.part.addrMask
  a4 := s.drawAt 12 .addrStack 4 &&& s.cfg.part.addrMask

/-- Ports after a reset: every pin an input; pull-ups and analog selection kept but by `RST_A`; latches 0, free after
`RST_C` (R31, R87, R332, D28). -/
def resetPorts (c : ResetCause) (s : State) : Ports where
  latA := if c.isC then s.drawAt 4 .portLatch 0 else 0
  latB := if c.isC then s.drawAt 4 .portLatch 1 else 0
  latC := if c.isC then s.drawAt 4 .portLatch 2 else 0
  latD := if c.isC then s.drawAt 4 .portLatch 3 else 0
  latE := if c.isC then s.drawAt 4 .portLatch 4 else 0
  gpu := if c = .rstA then 0 else s.ports.gpu
  gio := 0
  dbpu := if c = .rstA then 0 else s.ports.dbpu
  cidi := if c = .rstA then 0 else s.ports.cidi
  cbio := 0
  dbio := 0
  tm1osel := false
  sioen := false

/-- Timer 0 after a reset (R74, R87). -/
def resetTm0 (c : ResetCause) (s : State) : Timer where
  en := if c = .rstA then false else s.tm0.en
  ck := if c = .rstA then 0 else s.tm0.ck
  count := 0
  modulo := 0xFF

/-- Timer 1 after a reset (R55, R74, R87). -/
def resetTm1 (c : ResetCause) (s : State) : Timer where
  en := if c = .rstA then true else s.tm1.en
  ck := if c = .rstA then 0 else s.tm1.ck
  count := if c.isC then s.draw 8 .tm1Count else 0
  modulo := 0xFF

/-- Basic interval timer and watchdog after a reset (R80, R87). WDT_EN and the watchdog's flip-flops are what every reset
clears (R81, R382, D4; log 9), but for WDT_DIV after a watchdog overflow (R473). -/
def resetBtm (c : ResetCause) (s : State) : Btm where
  isel := if c = .rstA then false else s.btm.isel
  ck := if c = .rstA then 0 else s.btm.ck
  cnt := if c = .wdt then 0x40 else s.draw 7 .btmCount
  wdtEn := false
  wdtDiv := decide (c = .wdt)
  wdtCarry := false

/-- A/D converter after a reset: idle, ADCR 00H; its control registers, ADCCMP among them, cleared by `RST_A` and kept by
the others (R46, R83, R87, D28; log 9). -/
def resetAdc (c : ResetCause) (s : State) : Adc where
  soft := if c = .rstA then false else s.adc.soft
  cmp := if c = .rstA then false else s.adc.cmp
  fin := if c = .rstA then false else s.adc.fin
  ch := if c = .rstA then 0 else s.adc.ch
  adcr := 0
  seq := .idle

/-- Serial interface after a reset (R82, R87; a transfer that the reset leaves marked in progress is spoilt, log 28). -/
def resetSio (c : ResetCause) (s : State) : Sio where
  ts := if c = .rstA then false else s.sio.ts
  hiz := if c = .rstA then false else s.sio.hiz
  ck := if c = .rstA then 0 else s.sio.ck
  sfr := if c = .rstB then s.sio.sfr else s.draw 8 .sioShift
  cnt := s.draw 3 .hidden
  soLatch := if c.isC then s.drawBit .soLatch else false
  sckLow := s.drawBitAt .hidden 2
  sckPrev := s.drawBitAt .hidden 3
  tainted := if c = .rstA then false else s.sio.ts

/-- `Reset(cause)` (R470) with the values of R87. `RST_C` goes on at 0000H at once, the others wait for timer 1. -/
def applyReset (c : ResetCause) (s : State) : State where
  cfg := s.cfg
  rom := s.rom
  ram := resetRam c s
  pc := 0
  sp := 5
  asr := resetAsr s
  intsk := []
  ar := 0
  wr := if c = .rstB then s.wr else s.draw 4 .wr
  ix := 0
  mpe := false
  rpRow := 0
  psw := Psword.zero
  skip := false
  inte := false
  eiPending := false
  mode := if c.isC then .run else if c = .rstA then .wait .resetA 0 else .wait .resetB 0
  ports := resetPorts c s
  tm0 := resetTm0 c s
  tm1 := resetTm1 c s
  tm1Out := s.drawBitAt .hidden 4
  btm := resetBtm c s
  adc := resetAdc c s
  sio := resetSio c s
  irq := if c = .rstA then IrqSet.afterResetA else s.irq
  ip := if c = .rstA then IrqSet.none else s.ip
  irqDly := if c = .rstA then IrqSet.afterResetA else s.irq
  iegmd := if c = .rstA then 0 else s.iegmd
  intPrev := s.drawBitAt .hidden 5
  prescaler := s.draw 10 .hidden
  pins := s.pins
  inputs := s.inputs
  rstSig := true
  freeIdx := s.freeIdx + 1

/-- Push, then go on; an overflow is the reset `RST_C/STACK` (R472). -/
def pushThen (s : State) (v : PAddr) (k : State → State) : State :=
  match pushAddr s v with
  | some t => k t
  | none => applyReset .stack s

/-- Pop, then go on with the value; an underflow is the reset `RST_C/STACK` (R472). -/
def popThen (s : State) (k : PAddr → State → State) : State :=
  match popAddr s with
  | some (v, t) => k v t
  | none => applyReset .stack s

/-! ### Interrupts -/

/-- The five sources (R441). -/
inductive IrqSource where
  | int | tm0 | tm1 | btm | sio
deriving DecidableEq, Repr

/-- `VEC(x)` (R441). -/
def IrqSource.vector (x : IrqSource) : PAddr :=
  match x with
  | .int => 0x005
  | .tm0 => 0x004
  | .tm1 => 0x003
  | .btm => 0x002
  | .sio => 0x001

/-- The flag of one source. -/
def IrqSet.get (f : IrqSet) (x : IrqSource) : Bool :=
  match x with
  | .int => f.int
  | .tm0 => f.tm0
  | .tm1 => f.tm1
  | .btm => f.btm
  | .sio => f.sio

/-- The flag of one source written. -/
def IrqSet.put (f : IrqSet) (x : IrqSource) (b : Bool) : IrqSet :=
  match x with
  | .int => { f with int := b }
  | .tm0 => { f with tm0 := b }
  | .tm1 => { f with tm1 := b }
  | .btm => { f with btm := b }
  | .sio => { f with sio := b }

/-- The flags of two sets that both hold: pending and enabled. -/
def IrqSet.both (f g : IrqSet) : IrqSet where
  int := f.int && g.int
  tm0 := f.tm0 && g.tm0
  tm1 := f.tm1 && g.tm1
  btm := f.btm && g.btm
  sio := f.sio && g.sio

/-- Some flag holds. -/
def IrqSet.any (f : IrqSet) : Bool := f.int || f.tm0 || f.tm1 || f.btm || f.sio

/-- The member of the highest priority (R441, R446). -/
def IrqSet.first (f : IrqSet) : Option IrqSource :=
  if f.int then some .int
  else if f.tm0 then some .tm0
  else if f.tm1 then some .tm1
  else if f.btm then some .btm
  else if f.sio then some .sio
  else Option.none

/-- TAKING AN INTERRUPT: `Accept(x)` without its cycle of time (R445). The return address goes to the address stack, PSWORD
to the interrupt stack (of which the oldest of four is lost, R27), PSWORD, INTE and IRQ(x) are cleared, PC is the vector.
A full address stack resets the chip instead (R472); log 34 on IRQ(x) then. -/
def takeInterrupt (x : IrqSource) (s : State) : State :=
  match pushAddr s s.pc with
  | some t =>
    { t with
      inte := false
      irq := t.irq.put x false
      intsk := (s.psw :: s.intsk).take 3
      psw := Psword.zero
      pc := x.vector }
  | none => applyReset .stack { s with irq := s.irq.put x (s.drawBit .irqAbandoned) }

/-- The PSWORD that RETI restores: the newest saved one, free when none is saved (R448, D3). -/
def savedPsword (s : State) : Psword :=
  match s.intsk with
  | p :: _ => p
  | [] => ⟨s.drawBitAt .psword 0, s.drawBitAt .psword 1, s.drawBitAt .psword 2, s.drawBitAt .psword 3,
      s.drawBitAt .psword 4⟩

/-- RETURNING FROM AN INTERRUPT (R287, R448): PSWORD from the interrupt stack, PC from the address stack. -/
def returnFromInterrupt (s : State) : State :=
  popThen s (fun v t => setPc { t with psw := savedPsword s, intsk := s.intsk.tail } v)

end Sys2Proof.Machine
end

