-- ==== Sys2Proof/Machine/Operands.lean ====
section
/-! DEFINITION. Every operand form: general register, direct, indirect (R106-R109). -/

namespace Sys2Proof.Machine

/-- `GR(r)`: the data-memory address of general register `r` (R106). -/
def gr (s : State) (r : Nibble) : DAddr := s.rpRow ++ r

/-- `EA(m)`: the direct operand, OR-ed with IX while IXE = 1 (R107). -/
def ea (s : State) (m : DAddr) : DAddr := if s.psw.ixe then m ||| s.ix else m

/-- The row of `@r`: MP's while MPE = 1, else the operand's, OR-ed with IX's row while IXE = 1 (R108, D16). -/
def iaRow (s : State) (m : DAddr) : BitVec 3 :=
  if s.mpe then s.ix.extractLsb' 4 3
  else if s.psw.ixe then m.extractLsb' 4 3 ||| s.ix.extractLsb' 4 3
  else m.extractLsb' 4 3

/-- `IA(m, r)`: the row above, and the content of general register `r` as the column (R108). -/
def ia (s : State) (m : DAddr) (r : Nibble) : DAddr := iaRow s m ++ memRead s (gr s r)

/-- The content of general register `r`. -/
def readR (s : State) (r : Nibble) : Nibble := memRead s (gr s r)

/-- The content of the direct operand `m`. -/
def readM (s : State) (m : DAddr) : Nibble := memRead s (ea s m)

end Sys2Proof.Machine
end

