-- ==== Sys2Proof/Machine/Flags.lean ====
section
/-! DEFINITION. Every flag computation: binary and decimal results (R180, R181), CY and Z (R43), and the arithmetic and
rotation procedures that write them. -/

namespace Sys2Proof.Machine

/-- The carry or borrow and the 4-bit result of an arithmetic operation. -/
structure AluOut where
  cy : Bool
  res : Nibble
deriving DecidableEq, Repr

/-- Binary addition (R180): `a + b + cin`, a natural number 0..31. -/
def addBinary (a b : Nibble) (cin : Bool) : AluOut :=
  let t := a.toNat + b.toNat + cin.toNat
  ⟨decide (16 ≤ t), BitVec.ofNat 4 t⟩

/-- Binary subtraction (R180): `a - b - cin`, an integer -16..15, the result modulo 16. -/
def subBinary (a b : Nibble) (cin : Bool) : AluOut :=
  let t : Int := (a.toNat : Int) - b.toNat - cin.toNat
  ⟨decide (t < 0), BitVec.ofInt 4 t⟩

/-- The results of the shaded part of the addition table, s = 20 to 31 (R181). -/
def bcdAddInvalid (s : Nat) : Nibble :=
  match s with
  | 20 => 0xE
  | 21 => 0xF
  | 22 => 0xC
  | 23 => 0xD
  | 24 => 0xE
  | 25 => 0xF
  | 26 => 0xC
  | 27 => 0xD
  | 28 => 0xA
  | 29 => 0xB
  | 30 => 0xC
  | _ => 0xD

/-- `BCDADD` (R181), indexed by the binary sum s = 16 * cyb + nb. -/
def bcdAdd (x : AluOut) : AluOut :=
  let s := 16 * x.cy.toNat + x.res.toNat
  if s ≤ 9 then ⟨false, BitVec.ofNat 4 s⟩
  else if s ≤ 19 then ⟨true, BitVec.ofNat 4 (s - 10)⟩
  else ⟨true, bcdAddInvalid s⟩

/-- The results of the shaded part of the subtraction table: d = 10 to 15 without a borrow, d = -16 to -11 with one, by
the binary result nb (R181). -/
def bcdSubInvalid (borrow : Bool) (nb : Nat) : Nibble :=
  match borrow, nb with
  | false, 10 => 0xC
  | false, 11 => 0xD
  | false, 12 => 0xE
  | false, 13 => 0xF
  | false, 14 => 0xC
  | false, _ => 0xD
  | true, 0 => 0xE
  | true, 1 => 0xF
  | true, 2 => 0xC
  | true, 3 => 0xD
  | true, 4 => 0xE
  | true, _ => 0xF

/-- `BCDSUB` (R181), indexed by d = nb - 16 * cyb. -/
def bcdSub (x : AluOut) : AluOut :=
  let d : Int := (x.res.toNat : Int) - 16 * x.cy.toNat
  if 0 ≤ d ∧ d ≤ 9 then ⟨false, BitVec.ofInt 4 d⟩
  else if -10 ≤ d ∧ d ≤ -1 then ⟨true, BitVec.ofInt 4 (d + 10)⟩
  else ⟨true, bcdSubInvalid x.cy x.res.toNat⟩

/-- Addition in the arithmetic BCD selects (R41, R180). -/
def aluAdd (bcd : Bool) (a b : Nibble) (cin : Bool) : AluOut :=
  if bcd then bcdAdd (addBinary a b cin) else addBinary a b cin

/-- Subtraction in the arithmetic BCD selects (R41, R180). -/
def aluSub (bcd : Bool) (a b : Nibble) (cin : Bool) : AluOut :=
  if bcd then bcdSub (subBinary a b cin) else subBinary a b cin

/-- Z after an arithmetic operation (R43): cleared by a result other than 0, set by 0 unless CMP is 1. -/
def zAfter (p : Psword) (res : Nibble) : Bool :=
  if res ≠ 0 then false else if p.cmp then p.z else true

/-- CY and Z after an arithmetic operation (R43, R180). -/
def Psword.withAlu (p : Psword) (x : AluOut) : Psword := { p with cy := x.cy, z := zAfter p x.res }

/-- The end of `ARITH` (R180): the flags, then, unless CMP was 1, the store, which wins where it holds the flags (R45). -/
def arithFinish (s : State) (dest : DAddr) (x : AluOut) : State :=
  let t := { s with psw := s.psw.withAlu x }
  if s.psw.cmp then t else memWrite t dest x.res

/-- The result of RORC: CY : r[3:1] (R240). -/
def rotateRight (cy : Bool) (a : Nibble) : Nibble := nibbleOf cy (a.getLsbD 3) (a.getLsbD 2) (a.getLsbD 1)

end Sys2Proof.Machine
end

