-- ==== Sys2Proof/Machine/Timers.lean ====
section
/-! DEFINITION. The prescaler (R360), timer 0 and timer 1 (R361-R370), the basic interval timer and the watchdog
(R380-R383), as one instruction cycle or one control write changes them. -/

namespace Sys2Proof.Machine

/-! ### The prescaler -/

/-- The divided clock of bit `k`, whose period is 2 to the `k + 1` cycles, has just fallen (R360, D23). -/
def dividedFalls (p : BitVec 10) (k : Nat) : Bool := decide (p.toNat % 2 ^ (k + 1) = 0)

/-- The divided clock of bit `k` has just risen. -/
def dividedRises (p : BitVec 10) (k : Nat) : Bool := decide (p.toNat % 2 ^ (k + 1) = 2 ^ k)

/-! ### Timers 0 and 1 -/

/-- One count of timer 1: at the modulo value the match, else plus 1 (R363, R369). -/
def tm1Count (s : State) : State :=
  if s.tm1.count = s.tm1.modulo then
    { s with tm1 := { s.tm1 with count := 0 }, irq := { s.irq with tm1 := true }, tm1Out := !s.tm1Out }
  else { s with tm1 := { s.tm1 with count := s.tm1.count + 1 } }

/-- Timer 1 counts for the program: not in STOP mode (R466), nor in a wait, which counts on its own (R464, R501). -/
def tm1Free (s : State) : Bool :=
  match s.mode with
  | .run => true
  | .halt _ => true
  | .stop _ => false
  | .wait _ _ => false
  | .held _ _ => false

/-- A count pulse at timer 1; ignored while TM1EN is 0 (R363). -/
def tm1Pulse (s : State) : State := if s.tm1.en && tm1Free s then tm1Count s else s

/-- A count pulse at timer 0; its match is a pulse to timer 1 where TM1CK is 11 (R363, R368). -/
def tm0Pulse (s : State) : State :=
  if s.tm0.en then
    if s.tm0.count = s.tm0.modulo then
      let t := { s with tm0 := { s.tm0 with count := 0 }, irq := { s.irq with tm0 := true } }
      if s.tm1.ck = 3 then tm1Pulse t else t
    else { s with tm0 := { s.tm0 with count := s.tm0.count + 1 } }
  else s

/-- The pulse TM0CK selects comes in this cycle; `ext` says the INT pin gave its edge (R362). -/
def tm0Clock (s : State) (ext : Bool) : Bool :=
  match s.tm0.ck.toNat with
  | 0 => true
  | 1 => dividedFalls s.prescaler 4
  | 2 => dividedFalls s.prescaler 1
  | _ => ext

/-- The pulse TM1CK selects comes in this cycle; timer 0's match comes by `tm0Pulse` (R362). -/
def tm1Clock (s : State) : Bool :=
  match s.tm1.ck.toNat with
  | 0 => dividedFalls s.prescaler 2
  | 1 => dividedFalls s.prescaler 8
  | 2 => true
  | _ => false

/-- The pulse a wait counts: fx/128 after a reset, the selected one after STOP (R464, R501). -/
def waitClock (w : WaitFor) (s : State) : Bool :=
  match w with
  | .resetA => dividedFalls s.prescaler 2
  | .resetB => dividedFalls s.prescaler 2
  | .stopRelease => tm1Clock s

/-- The count that ends a wait: 256 pulses after a reset, the program's modulo value after STOP (R464, R501). -/
def waitModulo (w : WaitFor) (s : State) : Byte :=
  match w with
  | .resetA => 0xFF
  | .resetB => 0xFF
  | .stopRelease => s.tm1.modulo

/-- IRQTM1 at the end of a wait: 1, after `RST_B` its old value or 1 (R501, D28; log 10). -/
def waitIrq (w : WaitFor) (s : State) : Bool :=
  match w with
  | .resetA => true
  | .resetB => s.irq.tm1 || s.drawBit .irqTm1
  | .stopRelease => true

/-- One pulse of a wait; its match starts the CPU (R370, R464, R501). DEDUCED: with TM1EN = 0 that match leaves TM1OUT_FF
(R79; log 37). -/
def waitCount (w : WaitFor) (s : State) : State :=
  if s.tm1.count = waitModulo w s then
    { s with
      tm1 := { s.tm1 with count := 0 }
      irq := { s.irq with tm1 := waitIrq w s }
      tm1Out := if s.tm1.en then !s.tm1Out else s.tm1Out
      mode := .run }
  else { s with tm1 := { s.tm1 with count := s.tm1.count + 1 } }

/-- Timer 1's part of a cycle. -/
def tm1Cycle (s : State) : State :=
  match s.mode with
  | .run => if tm1Clock s then tm1Pulse s else s
  | .halt _ => if tm1Clock s then tm1Pulse s else s
  | .wait w _ => if waitClock w s then waitCount w s else s
  | .stop _ => s
  | .held _ _ => s

/-- Timer 0's part of a cycle. -/
def tm0Cycle (ext : Bool) (s : State) : State := if tm0Clock s ext then tm0Pulse s else s

/-- A start from the stopped state, without TM0RES, on a low divided clock counts at once (R367; log 12). -/
def tm0StartsLow (s : State) (ck : BitVec 2) : Bool :=
  match ck.toNat with
  | 1 => !s.prescaler.getLsbD 4
  | 2 => !s.prescaler.getLsbD 1
  | _ => false

/-- As `tm0StartsLow`, for timer 1. -/
def tm1StartsLow (s : State) (ck : BitVec 2) : Bool :=
  match ck.toNat with
  | 0 => !s.prescaler.getLsbD 2
  | 1 => !s.prescaler.getLsbD 8
  | _ => false

/-- A write of `v` to RF 11H: TM0EN, TM0RES, TM0CK1, TM0CK0 (R54, R364, R367). -/
def writeTm0Mode (s : State) (v : Nibble) : State :=
  let t := { s with tm0 := { s.tm0 with en := v.getLsbD 3, ck := v.extractLsb' 0 2 } }
  if v.getLsbD 2 then { t with tm0 := { t.tm0 with count := 0 }, irq := { t.irq with tm0 := false } }
  else if !s.tm0.en && v.getLsbD 3 && tm0StartsLow s (v.extractLsb' 0 2) then tm0Pulse t
  else t

/-- A write of `v` to RF 12H: TM1EN, TM1RES, TM1CK1, TM1CK0 (R55, R364, R367, R369). -/
def writeTm1Mode (s : State) (v : Nibble) : State :=
  let t := { s with tm1 := { s.tm1 with en := v.getLsbD 3, ck := v.extractLsb' 0 2 } }
  if v.getLsbD 2 then
    { t with tm1 := { t.tm1 with count := 0 }, irq := { t.irq with tm1 := false }, tm1Out := true }
  else if !s.tm1.en && v.getLsbD 3 && tm1StartsLow s (v.extractLsb' 0 2) then tm1Pulse t
  else t

/-! ### Basic interval timer and watchdog -/

/-- `BTMCK_MAP` (D10). -/
def btmSelect (c : Config) (ck : BitVec 2) : BtmPulse :=
  match ck.toNat with
  | 0 => c.btmck00
  | 1 => c.btmck01
  | 2 => c.btmck10
  | _ => c.btmck11

/-- The selected BTM count pulse comes in this cycle (R381). -/
def btmClock (s : State) : Bool :=
  match btmSelect s.cfg s.btm.ck with
  | .fx16 => true
  | .fx512 => dividedFalls s.prescaler 4
  | .fx4096 => dividedFalls s.prescaler 7
  | .fx16384 => dividedFalls s.prescaler 9

/-- W, the 8-bit watchdog count WDT_DIV : BTMC (R383). -/
def wdtCount (b : Btm) : Byte := BitVec.ofBool b.wdtDiv ++ b.cnt

/-- An interval ends with this count: the low five or all seven bits are 0 (R381). -/
def btmInterval (isel : Bool) (cnt : BitVec 7) : Bool :=
  if isel then decide (cnt.extractLsb' 0 5 = 0) else decide (cnt = 0)

/-- The counter and the watchdog after one pulse (R381, R383); WDT_DIV is held at 0 while WDT_EN is 0. -/
def btmNext (b : Btm) : Btm :=
  let w := wdtCount b + 1
  { b with
    cnt := b.cnt + 1
    wdtDiv := b.wdtEn && w.getLsbD 7
    wdtCarry := if b.wdtEn && decide (w.toNat < 8) then true else b.wdtCarry }

/-- The watchdog overflows: W has reached 192 with the carry flip-flop set (R383, R473). -/
def wdtFires (b : Btm) : Bool := b.wdtEn && b.wdtCarry && decide (wdtCount b = 192)

/-- One BTM count pulse (R381, R383, R473). -/
def btmPulse (s : State) : State :=
  let b := btmNext s.btm
  let t := { s with btm := b, irq := { s.irq with btm := s.irq.btm || btmInterval b.isel b.cnt } }
  if wdtFires b then applyReset .wdt t else t

/-- The BTM's part of a cycle. -/
def btmCycle (s : State) : State := if btmClock s then btmPulse s else s

/-- A write of `v` to RF 13H: BTMISEL, BTMRES, BTMCK1, BTMCK0 (R56, R381, R383). -/
def writeBtmMode (s : State) (v : Nibble) : State :=
  let t := { s with btm := { s.btm with isel := v.getLsbD 3, ck := v.extractLsb' 0 2 } }
  if v.getLsbD 2 then { t with btm := { t.btm with cnt := 0 }, irq := { t.irq with btm := false } } else t

/-- WDTEN written 1 (R382, R383): the watchdog is on, WDT_CARRY is set in counts 0-7, and free where it is switched on
later. -/
def enableWdt (s : State) : Btm :=
  if s.btm.wdtEn then
    if (wdtCount s.btm).toNat < 8 then { s.btm with wdtCarry := true } else s.btm
  else if s.btm.cnt.toNat < 8 then { s.btm with wdtEn := true, wdtDiv := false, wdtCarry := true }
  else { s.btm with wdtEn := true, wdtDiv := false, wdtCarry := s.drawBit .wdtCarry }

/-- WDTRES written 1: clears WDT_CARRY in counts 8 to 191 (R382, R383). -/
def resetWdtCarry (b : Btm) : Btm :=
  if 8 ≤ (wdtCount b).toNat ∧ (wdtCount b).toNat ≤ 191 then { b with wdtCarry := false } else b

/-- A write of `v` to RF 03H: WDTRES in bit 3, WDTEN in bit 0; WDTEN cannot be cleared (R49, R382). -/
def writeWdt (s : State) (v : Nibble) : State :=
  let b := if v.getLsbD 0 then enableWdt s else s.btm
  { s with btm := if v.getLsbD 3 then resetWdtCarry b else b }

end Sys2Proof.Machine
end

