-- ==== Sys2Proof/Machine/Adc.lean ====
section
/-! DEFINITION. The A/D converter (R390-R394). The sequencer counts instruction cycles, the starting instruction's own
cycle being the first, so that the end of instruction `j` after the start is cycle `j + 1`. -/

namespace Sys2Proof.Machine

/-- `AnaHigher(ch, code)` of the channel ADCCH1:ADCCH0 (R390): the input is higher than the D/A output of `code`. -/
def anaHigher (s : State) (code : Byte) : Bool :=
  match (s.adc.ch.extractLsb' 0 2).toNat with
  | 0 => decide (code.toNat < s.pins.ana0)
  | 1 => decide (code.toNat < s.pins.ana1)
  | 2 => decide (code.toNat < s.pins.ana2)
  | _ => decide (code.toNat < s.pins.ana3)

/-- The top `d` bits of a byte. -/
def topMask (d : Nat) : Byte := ~~~((0xFF : Byte) >>> d)

/-- The bit decided as the `k`-th, counted from bit 7. -/
def trialBit (k : Nat) : Byte := (0x80 : Byte) >>> k

/-- `known` in the top `d` bits, `rest` below. -/
def keepTop (d : Nat) (known rest : Byte) : Byte := (known &&& topMask d) ||| (rest &&& ~~~topMask d)

/-- The `k`-th decision of a successive approximation (R392): the bits decided so far, and the bit under decision if the
input is higher than the trial code. -/
def decideBit (s : State) (k : Nat) : Byte :=
  let done := s.adc.adcr &&& topMask k
  if anaHigher s (done ||| trialBit k) then done ||| trialBit k else done

/-- Cycle `n` of a continuous conversion (R392): bit `7 - k` is stored in cycle `3k + 4`, ADCEND set with the last; bits not
yet decided, and ADCCMP, are free. -/
def continuousCycle (s : State) (n : Nat) (tainted : Bool) : Adc where
  soft := s.adc.soft
  cmp := s.drawBit .adcCompare
  fin := decide (n = 25)
  ch := s.adc.ch
  adcr :=
    if tainted then s.draw 8 .adcData
    else if 4 ≤ n ∧ (n - 1) % 3 = 0 then
      keepTop ((n - 1) / 3) (decideBit s ((n - 1) / 3 - 1)) (s.draw 8 .adcData)
    else keepTop ((n - 1) / 3) s.adc.adcr (s.draw 8 .adcData)
  seq := if n = 25 then .idle else .continuous n tainted

/-- Cycle `n` of a single comparison (R393): ADCCMP is written at the end of the second instruction after the start, cycle
3; ADCEND is free. -/
def singleCycle (s : State) (n : Nat) (tainted : Bool) : Adc where
  soft := s.adc.soft
  cmp := if n = 3 then (if tainted then s.drawBit .adcCompare else anaHigher s s.adc.adcr) else s.adc.cmp
  fin := s.drawBit .adcEnd
  ch := s.adc.ch
  adcr := s.adc.adcr
  seq := if n = 3 then .idle else .single n tainted

/-- The converter's part of a cycle. -/
def adcCycle (s : State) : State :=
  match s.adc.seq with
  | .idle => s
  | .continuous n t => { s with adc := continuousCycle s (n + 1) t }
  | .single n t => { s with adc := singleCycle s (n + 1) t }

/-- ADCSTRT written 1 (R60, R392, R393): a new start restarts the sequencer (D24). -/
def adcStart (s : State) : State :=
  if s.adc.soft then
    { s with adc := { s.adc with cmp := s.drawBit .adcCompare, fin := false, seq := .single 0 false } }
  else
    { s with adc := { s.adc with
        cmp := s.drawBit .adcCompare, fin := false, adcr := s.draw 8 .adcData, seq := .continuous 0 false } }

/-- `PUT ADCR, DBF` (R391, R393): ignored unless ADCSOFT is 1. -/
def writeAdcr (s : State) (v : Byte) : State :=
  if s.adc.soft then { s with adc := { s.adc with cmp := false, fin := false, adcr := v, seq := .single 0 false } }
  else s

/-- The result of a conversion in progress becomes unspecified (R394 (d), D24). -/
def AdcSeq.taint (q : AdcSeq) : AdcSeq :=
  match q with
  | .idle => .idle
  | .continuous n _ => .continuous n true
  | .single n _ => .single n true

/-- A write of `v` to RF 21H: only ADCSOFT is writable (R61). -/
def writeAdcMode (s : State) (v : Nibble) : State :=
  { s with adc := { s.adc with
      soft := v.getLsbD 3, seq := if v.getLsbD 3 = s.adc.soft then s.adc.seq else s.adc.seq.taint } }

/-- A write of `v` to RF 22H; bits 3 and 2 are stored without function (R62, D5). -/
def writeAdcChannel (s : State) (v : Nibble) : State :=
  { s with adc := { s.adc with
      ch := v
      seq := if v.extractLsb' 0 2 = s.adc.ch.extractLsb' 0 2 then s.adc.seq else s.adc.seq.taint } }

end Sys2Proof.Machine
end

