-- ==== Sys2Proof/Machine/Serial.lean ====
section
/-! DEFINITION. The serial interface (R410-R415). -/

namespace Sys2Proof.Machine

/-- A falling edge of the serial clock: the shift register's top bit to the output latch (R412). -/
def sioFall (s : State) : State :=
  { s with sio := { s.sio with
      soLatch := if s.sio.tainted then s.drawBit .sioDisturbed else s.sio.sfr.getLsbD 7
      sckLow := true } }

/-- The shift register after a rising edge: shifted, SI into bit 0; free in a disturbed transfer (R412, D25). -/
def sioShifted (s : State) : Byte :=
  if s.sio.tainted then s.draw 8 .sioDisturbed
  else s.sio.sfr.extractLsb' 0 7 ++ BitVec.ofBool ((pinsD s).getLsbD 2)

/-- A rising edge of the serial clock, after a falling one: shift and count; the eighth ends the transfer (R412). -/
def sioRise (s : State) : State :=
  if s.sio.sckLow then
    if s.sio.cnt = 7 then
      { s with
        sio := { s.sio with sfr := sioShifted s, cnt := 0, sckLow := false, ts := false, tainted := false }
        irq := { s.irq with sio := true } }
    else { s with sio := { s.sio with sfr := sioShifted s, cnt := s.sio.cnt + 1, sckLow := false } }
  else s

/-- The level of the SCK pin. -/
def pinSck (s : State) : Bool := (pinsD s).getLsbD 0

/-- The edges of an external clock since the last sample (R411). -/
def sioExternal (s : State) : State :=
  if s.sio.sckPrev && !pinSck s then sioFall s
  else if !s.sio.sckPrev && pinSck s then sioRise s
  else s

/-- The edges of an internal clock of prescaler bit `k` (R411). DESIGN CHOICE: a transfer ends with its eighth rising edge,
half a clock before the 64 or 512 cycles that R412 gives (log 38). -/
def sioDivided (s : State) (k : Nat) : State :=
  if dividedFalls s.prescaler k then sioFall s
  else if dividedRises s.prescaler k then sioRise s
  else s

/-- A transfer with the serial pins switched off is not described: its data become free (R413, D25; log 16). -/
def sioCheckPins (s : State) : State :=
  if s.ports.sioen then s else { s with sio := { s.sio with tainted := true } }

/-- The edges of the selected clock in one cycle: fx/16 gives one of each (R411). -/
def sioClocked (s : State) : State :=
  match s.sio.ck.toNat with
  | 0 => sioExternal s
  | 1 => sioRise (sioFall s)
  | 2 => sioDivided s 2
  | _ => sioDivided s 5

/-- The serial interface's part of a cycle. -/
def sioCycle (s : State) : State :=
  let t := if s.sio.ts then sioClocked (sioCheckPins s) else s
  { t with sio := { t.sio with sckPrev := pinSck s } }

/-- In STOP mode only an external clock works (R466). -/
def sioStopCycle (s : State) : State :=
  let t := if s.sio.ts && decide (s.sio.ck = 0) then sioExternal (sioCheckPins s) else s
  { t with sio := { t.sio with sckPrev := pinSck s } }

/-- SIOSFR as a transfer leaves it that is broken off: free where a PUT or the pins disturbed the transfer (R414, U14;
log 16). -/
def sioKept (s : State) : Byte := if s.sio.tainted then s.draw 8 .sioDisturbed else s.sio.sfr

/-- A write of `v` to RF 02H: SIOTS, SIOHIZ, SIOCK1, SIOCK0 (R48, R412, R413). SIOTS = 1 starts a transfer and clears
IRQSIO, with SIOEN = 0 it is refused (D25); SIOTS = 0 stops one. -/
def writeSioMode (s : State) (v : Nibble) : Except Refusal State :=
  let io := { s.sio with hiz := v.getLsbD 2, ck := v.extractLsb' 0 2, sfr := sioKept s }
  if v.getLsbD 3 then
    if s.ports.sioen then
      .ok { s with
        sio := { io with ts := true, cnt := 0, sckLow := false, tainted := false }
        irq := { s.irq with sio := false } }
    else .error .serialDisabled
  else .ok { s with sio := { io with ts := false, tainted := false } }

/-- `GET DBF, SIOSFR`: free during a transfer (R414, D25). -/
def readSioShift (s : State) : Byte := if s.sio.ts then s.draw 8 .sioDisturbed else s.sio.sfr

/-- `PUT SIOSFR, DBF`: during a transfer the rest of it becomes free (R414, D25), and so does what it leaves (`sioKept`). -/
def writeSioShift (s : State) (v : Byte) : State :=
  { s with sio := { s.sio with sfr := v, tainted := s.sio.tainted || s.sio.ts } }

end Sys2Proof.Machine
end

