-- ==== Sys2Proof/Machine/RegFile.lean ====
section
/-! DEFINITION. The register file (R110, R112, R113) and the peripheral registers (R114, R116, R117). -/

namespace Sys2Proof.Machine

/-! ### The register file -/

/-- The 25 control registers in use (R46), and the unused addresses. -/
inductive CtrlReg where
  | sp | sioMode | wdt | pinSelect | groupPullup | bitPullup | intLevel | tm0Mode | tm1Mode | btmMode | analogSelect
  | directionC | intEdge | adcTrigger | adcMode | adcChannel | directionD | groupDirection | ipSio | ipMain
  | irqSio | irqBtm | irqTm1 | irqTm0 | irqInt | unused
deriving DecidableEq, Repr

/-- The map of register-file addresses 00H-3FH (R46, R72). -/
def ctrlReg (a : DAddr) : CtrlReg :=
  match a.toNat with
  | 0x01 => .sp
  | 0x02 => .sioMode
  | 0x03 => .wdt
  | 0x0B => .pinSelect
  | 0x0C => .groupPullup
  | 0x0D => .bitPullup
  | 0x0F => .intLevel
  | 0x11 => .tm0Mode
  | 0x12 => .tm1Mode
  | 0x13 => .btmMode
  | 0x1B => .analogSelect
  | 0x1C => .directionC
  | 0x1F => .intEdge
  | 0x20 => .adcTrigger
  | 0x21 => .adcMode
  | 0x22 => .adcChannel
  | 0x2B => .directionD
  | 0x2C => .groupDirection
  | 0x2E => .ipSio
  | 0x2F => .ipMain
  | 0x3B => .irqSio
  | 0x3C => .irqBtm
  | 0x3D => .irqTm1
  | 0x3E => .irqTm0
  | 0x3F => .irqInt
  | _ => .unused

/-- A nibble whose only used bit is bit 0. -/
def bit0 (b : Bool) : Nibble := nibbleOf false false false b

/-- The nibble a control register reads as (R47-R72): fixed-0 bits and triggers read 0, an unused address is free. -/
def ctrlRead (s : State) (c : CtrlReg) : Nibble :=
  match c with
  | .sp => (0 : BitVec 1) ++ s.sp
  | .sioMode => BitVec.ofBool s.sio.ts ++ BitVec.ofBool s.sio.hiz ++ s.sio.ck
  | .wdt => 0
  | .pinSelect => nibbleOf s.ports.tm1osel false false s.ports.sioen
  | .groupPullup => (0 : BitVec 1) ++ s.ports.gpu
  | .bitPullup => s.ports.dbpu
  | .intLevel => bit0 (pinInt s)
  | .tm0Mode => BitVec.ofBool s.tm0.en ++ (0 : BitVec 1) ++ s.tm0.ck
  | .tm1Mode => BitVec.ofBool s.tm1.en ++ (0 : BitVec 1) ++ s.tm1.ck
  | .btmMode => BitVec.ofBool s.btm.isel ++ (0 : BitVec 1) ++ s.btm.ck
  | .analogSelect => s.ports.cidi
  | .directionC => s.ports.cbio
  | .intEdge => (0 : BitVec 2) ++ s.iegmd
  | .adcTrigger => 0
  | .adcMode => nibbleOf s.adc.soft false s.adc.cmp s.adc.fin
  | .adcChannel => s.adc.ch
  | .directionD => s.ports.dbio
  | .groupDirection => (0 : BitVec 1) ++ s.ports.gio
  | .ipSio => bit0 s.ip.sio
  | .ipMain => nibbleOf s.ip.btm s.ip.tm1 s.ip.tm0 s.ip.int
  | .irqSio => bit0 s.irq.sio
  | .irqBtm => bit0 s.irq.btm
  | .irqTm1 => bit0 s.irq.tm1
  | .irqTm0 => bit0 s.irq.tm0
  | .irqInt => bit0 s.irq.int
  | .unused => s.draw 4 .unusedControl

/-- SP written: 6 and 7 reset the chip (R26, R472, D2). -/
def writeSp (s : State) (v : Nibble) : State :=
  if 6 ≤ (v.extractLsb' 0 3).toNat then applyReset .stack s else { s with sp := v.extractLsb' 0 3 }

/-- A write of `v` to a control register (R47-R72, R113), or why it is refused. -/
def ctrlWrite (s : State) (c : CtrlReg) (v : Nibble) : Except Refusal State :=
  match c with
  | .sp => .ok (writeSp s v)
  | .sioMode => writeSioMode s v
  | .wdt => .ok (writeWdt s v)
  | .pinSelect => .ok { s with ports := { s.ports with tm1osel := v.getLsbD 3, sioen := v.getLsbD 0 } }
  | .groupPullup => .ok { s with ports := { s.ports with gpu := v.extractLsb' 0 3 } }
  | .bitPullup => .ok { s with ports := { s.ports with dbpu := v } }
  | .intLevel => .ok s
  | .tm0Mode => .ok (writeTm0Mode s v)
  | .tm1Mode => .ok (writeTm1Mode s v)
  | .btmMode => .ok (writeBtmMode s v)
  | .analogSelect => .ok { s with ports := { s.ports with cidi := v } }
  | .directionC => .ok { s with ports := { s.ports with cbio := v } }
  | .intEdge => if v.extractLsb' 0 2 = 3 then .error .edgeModeReserved else .ok { s with iegmd := v.extractLsb' 0 2 }
  | .adcTrigger => .ok (if v.getLsbD 0 then adcStart s else s)
  | .adcMode => .ok (writeAdcMode s v)
  | .adcChannel => .ok (writeAdcChannel s v)
  | .directionD => .ok { s with ports := { s.ports with dbio := v } }
  | .groupDirection => .ok { s with ports := { s.ports with gio := v.extractLsb' 0 3 } }
  | .ipSio => .ok { s with ip := { s.ip with sio := v.getLsbD 0 } }
  | .ipMain =>
    .ok { s with ip := { s.ip with
      btm := v.getLsbD 3, tm1 := v.getLsbD 2, tm0 := v.getLsbD 1, int := v.getLsbD 0 } }
  | .irqSio => .ok { s with irq := { s.irq with sio := v.getLsbD 0 } }
  | .irqBtm => .ok { s with irq := { s.irq with btm := v.getLsbD 0 } }
  | .irqTm1 => .ok { s with irq := { s.irq with tm1 := v.getLsbD 0 } }
  | .irqTm0 => .ok { s with irq := { s.irq with tm0 := v.getLsbD 0 } }
  | .irqInt => .ok { s with irq := { s.irq with int := v.getLsbD 0 } }
  | .unused => .ok s

/-- `RfRead(a)` (R112): from 40H up the data memory of bank 0. -/
def rfRead (s : State) (a : DAddr) : Nibble :=
  if 0x40 ≤ a.toNat then memRead s a else ctrlRead s (ctrlReg a)

/-- `RfWrite(a, v)` (R113). -/
def rfWrite (s : State) (a : DAddr) (v : Nibble) : Except Refusal State :=
  if 0x40 ≤ a.toNat then .ok (memWrite s a v) else ctrlWrite s (ctrlReg a) v

/-! ### Peripheral registers -/

/-- The peripheral addresses of R114. -/
inductive PeriReg where
  | siosfr | tm0m | tm1m | adcr | ar | tm0tm1c | unassigned
deriving DecidableEq, Repr

/-- The map of peripheral addresses (R114). -/
def periReg (p : DAddr) : PeriReg :=
  match p.toNat with
  | 0x01 => .siosfr
  | 0x02 => .tm0m
  | 0x03 => .tm1m
  | 0x04 => .adcr
  | 0x40 => .ar
  | 0x45 => .tm0tm1c
  | _ => .unassigned

/-- `PeriRead(p)` (R116): what GET does to DBF. -/
def periRead (s : State) (p : PeriReg) : Except Refusal State :=
  match p with
  | .siosfr => .ok (dbfWriteLow s (readSioShift s))
  | .tm0m => .ok (dbfWriteLow s (s.drawAt 8 .writeOnlyGet 0))
  | .tm1m => .ok (dbfWriteLow s (s.drawAt 8 .writeOnlyGet 1))
  | .adcr => .ok (dbfWriteLow s s.adc.adcr)
  | .ar => .ok (dbfWrite s (s.ar.setWidth 16))
  | .tm0tm1c => .ok (dbfWrite s (s.tm1.count ++ s.tm0.count))
  | .unassigned => .error .unassignedPeripheral

/-- `PeriWrite(p, v)` (R117). -/
def periWrite (s : State) (p : PeriReg) (v : Word) : Except Refusal State :=
  match p with
  | .siosfr => .ok (writeSioShift s (v.extractLsb' 0 8))
  | .tm0m =>
    if v.extractLsb' 0 8 = 0 then .error .moduloZero
    else .ok { s with tm0 := { s.tm0 with modulo := v.extractLsb' 0 8 } }
  | .tm1m =>
    if v.extractLsb' 0 8 = 0 then .error .moduloZero
    else .ok { s with tm1 := { s.tm1 with modulo := v.extractLsb' 0 8 } }
  | .adcr => .ok (writeAdcr s (v.extractLsb' 0 8))
  | .ar => .ok (setAr s (v.extractLsb' 0 12))
  | .tm0tm1c => .ok s
  | .unassigned => .error .unassignedPeripheral

end Sys2Proof.Machine
end

