-- ==== Sys2Proof/Machine/Standby.lean ====
section
/-! DEFINITION. Release conditions (R461, R463), entering STOP (R464) and the initialisation by `STOP 0000B` (R465). -/

namespace Sys2Proof.Machine

/-- `HaltRelease(h, F)` (R461). -/
def haltRelease (s : State) (h : Nibble) (f : IrqSet) : Bool :=
  (h.getLsbD 3 && (f.both s.ip).any) || (h.getLsbD 1 && f.tm1) || (h.getLsbD 0 && !pinP0F0 s)

/-- `StopRelease(s, F)` (R463): never by timer 1. -/
def stopRelease (s : State) (c : Nibble) (f : IrqSet) : Bool :=
  (c.getLsbD 3 && ({ f.both s.ip with tm1 := false } : IrqSet).any) || (c.getLsbD 0 && !pinP0F0 s)

/-- The operands of STOP that the manual allows: 0000B, 1000B, 1001B (R302). -/
def stopOperandOk (c : Nibble) : Bool := decide (c = 0) || decide (c = 8) || decide (c = 9)

/-- Entering `STOP(c)`, `c` not 0 (R464, R394 (c)): IRQTM1 and the timer-1 count cleared, the conversion abandoned, ADCR
00H. -/
def enterStop (s : State) (c : Nibble) : State :=
  { s with
    mode := .stop c
    irq := { s.irq with tm1 := false }
    tm1 := { s.tm1 with count := 0 }
    adc := { s.adc with adcr := 0, seq := .idle } }

/-- `STOP 0000B` (R465, D21): every item to which column `RST_A` of R87 gives a definite value takes it; RAM, DBF, WR, SIOSFR,
the BTM counter and what R87 calls unspecified stay; the mode is STOP until a reset. Log 23. -/
def initStop (s : State) : State :=
  { s with
    pc := 0
    sp := 5
    intsk := []
    ar := 0
    ix := 0
    mpe := false
    rpRow := 0
    psw := Psword.zero
    skip := false
    inte := false
    eiPending := false
    mode := .stop 0
    ports := resetPorts .rstA s
    tm0 := resetTm0 .rstA s
    tm1 := resetTm1 .rstA s
    btm := { s.btm with isel := false, ck := 0, wdtEn := false, wdtDiv := false }
    adc := resetAdc .rstA s
    sio := { s.sio with
      ts := false, hiz := false, ck := 0, sfr := sioKept s, soLatch := false, tainted := false }
    irq := IrqSet.afterResetA
    ip := IrqSet.none
    irqDly := IrqSet.afterResetA
    iegmd := 0 }

end Sys2Proof.Machine
end

