-- ==== Sys2Proof/Machine/Cycle.lean ====
section
/-! DEFINITION. What an instruction cycle does to everything but the CPU (R360, D11), the end of a step (R300, R305), and
interrupt acceptance with its cycle (R444, R445). -/

namespace Sys2Proof.Machine

/-- The next sample of the outside, and the next draw of free values (R86). Logs 2 and 3. -/
def nextSample (s : State) : State :=
  match s.inputs with
  | [] => { s with freeIdx := s.freeIdx + 1 }
  | p :: rest => { s with pins := p, inputs := rest, freeIdx := s.freeIdx + 1 }

/-- INT has risen since the last sample (R450). -/
def intRises (s : State) : Bool := !s.intPrev && pinInt s

/-- INT has fallen since the last sample (R450). -/
def intFalls (s : State) : Bool := s.intPrev && !pinInt s

/-- IEGMD selects an edge that has come (R59, R450). -/
def intEdgeSelected (s : State) : Bool :=
  match s.iegmd.toNat with
  | 0 => intRises s
  | 1 => intFalls s
  | 2 => intRises s || intFalls s
  | _ => false

/-- The edge timer 0 counts has come (R362, D27). -/
def tm0ExtPulse (s : State) : Bool :=
  match s.cfg.tm0ExtEdge with
  | .rising => intRises s
  | .falling => intFalls s

/-- The edge detector's part of a cycle (R450). -/
def intCycle (s : State) : State :=
  { s with irq := { s.irq with int := s.irq.int || intEdgeSelected s }, intPrev := pinInt s }

/-- The prescaler's part of a cycle (R360). -/
def prescalerCycle (s : State) : State := { s with prescaler := s.prescaler + 1 }

/-- One instruction cycle with the oscillator running (R360, R466): a sample, then every hardware event of the cycle. -/
def clockedCycle (s : State) : State :=
  let t := nextSample s
  btmCycle (sioCycle (adcCycle (tm1Cycle (tm0Cycle (tm0ExtPulse t) (prescalerCycle (intCycle t))))))

/-- One cycle with the oscillator stopped (R466): INT edges, timer 0 where it counts INT, an externally clocked transfer. -/
def stoppedCycle (s : State) : State :=
  let t := nextSample s
  let u := intCycle t
  sioStopCycle (if tm0ExtPulse t && decide (u.tm0.ck = 3) then tm0Pulse u else u)

/-- RESET is low, or the power-on-clear circuit has detected a low supply (R471, R502). -/
def resetAsserted (s : State) : Bool :=
  !pinReset s || (s.cfg.option s.cfg.optPoc && s.pins.vddLow)

/-- The present sample overrides the program: a test or programming voltage (R512, R530), or the reset signal (R474). The
step ends with the first cycle that shows one, so that the next step finds it (`stepCore`). DESIGN CHOICE, log 21. -/
def overridden (s : State) : Bool :=
  s.pins.overVdd || (s.pins.vppProgram && decide (s.cfg.part = .upd17P149)) || resetAsserted s

/-- `n` cycles; an internal reset (R470) or a sample that overrides the program ends them. -/
def cycles (n : Nat) (s : State) : State :=
  match n with
  | 0 => s
  | k + 1 =>
    let t := clockedCycle s
    if t.rstSig || overridden t then t else cycles k t

/-- The oscillator has stopped. -/
def isStopped (m : Mode) : Bool :=
  match m with
  | .stop _ => true
  | .run => false
  | .halt _ => false
  | .wait _ _ => false
  | .held _ _ => false

/-- The CPU runs. -/
def isRunning (m : Mode) : Bool :=
  match m with
  | .run => true
  | .stop _ => false
  | .halt _ => false
  | .wait _ _ => false
  | .held _ _ => false

/-- The time of an instruction of `n` cycles that has had its effect: none but the sample's after a reset (log 20), with
the oscillator stopped after a STOP. -/
def passTime (n : Nat) (s : State) : State :=
  if s.rstSig then nextSample s
  else if isStopped s.mode then stoppedCycle s
  else cycles n s

/-- `Accept(x)` with its cycle (R445): the peripherals advance, and IRQ_DLY holds the flags as they were before (R88). -/
def acceptCycle (x : IrqSource) (s : State) : State :=
  let t := takeInterrupt x s
  if t.rstSig then nextSample t
  else
    let u := clockedCycle t
    if u.rstSig then u else { u with irqDly := s.irq }

/-- `AcceptCheck` (R444): the enabled request of the highest priority, while INTE is 1. -/
def acceptCheck (s : State) : State :=
  if s.inte then
    match (s.irq.both s.ip).first with
    | some x => acceptCycle x s
    | none => s
  else s

/-- EI_PENDING consumed at the end of the instruction after an EI (R300). -/
def settleEi (s : State) : State := if s.eiPending then { s with inte := true, eiPending := false } else s

/-- `EndOfStep` (R300, R305). `wasEi`: the step executed an EI; `pending`: EI_PENDING at its start; `irq0`: the request flags
at its start. Nothing remains to do after a reset; where the sample overrides the program nothing is accepted (log 21). -/
def endOfStep (wasEi pending : Bool) (irq0 : IrqSet) (s : State) : State :=
  if s.rstSig then s
  else
    let t := { s with irqDly := irq0 }
    if wasEi then (if pending then { t with inte := true } else t)
    else
      let u := settleEi t
      if !u.skip && isRunning u.mode && !overridden u then acceptCheck u else u

/-- The time of a word: two cycles for MOVT, executed or skipped (R220, R520). -/
def wordCycles (w : Word) : Nat := if w = 0x3810 then 2 else 1

/-- An executed EI. -/
def isEi (i : Instr) : Bool := decide (i = .ei)

/-- The word at PC (R220). -/
def fetch (s : State) : Word := romRead s s.pc

/-- The state an instruction is executed in: PC already past it (R22). -/
def afterFetch (s : State) : State := { s with pc := nextPc s }

/-- The rest of a step whose instruction, the word `w`, has taken state `s` to `t` (R220, R300). -/
def completeStep (wasEi : Bool) (w : Word) (s t : State) : State :=
  endOfStep wasEi s.eiPending s.irq (passTime (wordCycles w) t)

/-- A skipped word: consumed as a NOP, its time passes (R220, R93). -/
def skipStep (s : State) : State :=
  completeStep false (fetch s) s { afterFetch s with skip := false }

/-- One cycle of HALT (R462): the peripherals advance; then the release test with the flags themselves. A reset signal that
comes with the release finds the mode still HALT (log 21). -/
def haltCycle (h : Nibble) (s : State) : State :=
  let t := clockedCycle s
  if t.rstSig then t
  else
    let u := { t with irqDly := s.irq }
    if haltRelease u h u.irq && !overridden u then acceptCheck { u with mode := .run } else u

/-- One cycle of STOP (R464): what works without a clock; then the release test, which a reset signal overrides (log 21). -/
def stopCycle (c : Nibble) (s : State) : State :=
  let t := { stoppedCycle s with irqDly := s.irq }
  if stopRelease t c t.irq && !overridden t then { t with mode := .wait .stopRelease t.cfg.oscGrow } else t

/-- One cycle of a wait (R464, R501): first the oscillator's growth, in which nothing advances (D26; log 32), then timer 1
counts; its match starts the CPU, unless the sample overrides it: then the next step finds the wait (log 21). -/
def waitCycle (w : WaitFor) (grow : Nat) (s : State) : State :=
  match grow with
  | k + 1 => { nextSample s with mode := .wait w k }
  | 0 =>
    let t := clockedCycle s
    if t.rstSig then t
    else
      let u := { t with irqDly := s.irq }
      if overridden u then { u with mode := s.mode }
      else if isRunning u.mode then acceptCheck u
      else u

/-- The mode a reset that arrives now is held in: whether it counts as one in a standby mode (in a wait, only in one after
STOP), and whether the oscillator had stopped (R470, R471, R501; log 21). -/
def heldMode (m : Mode) : Mode :=
  match m with
  | .run => .held false false
  | .halt _ => .held true false
  | .stop _ => .held true true
  | .wait .resetA g => .held false (decide (g ≠ 0))
  | .wait .resetB g => .held false (decide (g ≠ 0))
  | .wait .stopRelease g => .held true (decide (g ≠ 0))
  | .held b o => .held b o

/-- A cycle with the reset signal asserted: nothing but the outside moves (R501). -/
def holdReset (s : State) : State := { nextSample s with mode := heldMode s.mode }

/-- The reset signal is released (R501): `Reset(cause)`, then the wait, after the growth of an oscillator that had stopped. -/
def releaseReset (standby oscStopped : Bool) (s : State) : State :=
  let t := applyReset (if standby then .rstB else .rstA) s
  { nextSample t with
    mode := .wait (if standby then .resetB else .resetA) (if oscStopped then s.cfg.oscGrow else 0) }

/-- Between steps no reset signal is pending (log 20). -/
def clearRstSig (s : State) : State := { s with rstSig := false }

end Sys2Proof.Machine
end

