-- ==== Sys2Proof/Machine/Arith.lean ====
section
/-! DEFINITION. Addition and subtraction (40_add.md, 41_sub.md). -/

namespace Sys2Proof.Machine

/-- `ADD r, m` (R182). -/
def execAddR (r : Nibble) (m : DAddr) (s : State) : Host.Outcome State Fault Refusal :=
  .next (arithFinish s (gr s r) (aluAdd s.psw.bcd (readR s r) (readM s m) false))

/-- `ADD m, #n4` (R183). -/
def execAddI (m : DAddr) (n4 : Nibble) (s : State) : Host.Outcome State Fault Refusal :=
  .next (arithFinish s (ea s m) (aluAdd s.psw.bcd (readM s m) n4 false))

/-- `ADDC r, m` (R184). -/
def execAddcR (r : Nibble) (m : DAddr) (s : State) : Host.Outcome State Fault Refusal :=
  .next (arithFinish s (gr s r) (aluAdd s.psw.bcd (readR s r) (readM s m) s.psw.cy))

/-- `ADDC m, #n4` (R185). -/
def execAddcI (m : DAddr) (n4 : Nibble) (s : State) : Host.Outcome State Fault Refusal :=
  .next (arithFinish s (ea s m) (aluAdd s.psw.bcd (readM s m) n4 s.psw.cy))

/-- `INC AR` (R186, D17): a binary increment of the valid bits, no flag. -/
def execIncAr (s : State) : Host.Outcome State Fault Refusal :=
  .next (setAr s (s.ar + 1))

/-- `INC IX` (R187, D17): a binary increment of the 7 valid bits; MPE and the flags stay. -/
def execIncIx (s : State) : Host.Outcome State Fault Refusal :=
  .next { s with ix := s.ix + 1 }

/-- `SUB r, m` (R201). -/
def execSubR (r : Nibble) (m : DAddr) (s : State) : Host.Outcome State Fault Refusal :=
  .next (arithFinish s (gr s r) (aluSub s.psw.bcd (readR s r) (readM s m) false))

/-- `SUB m, #n4` (R202). -/
def execSubI (m : DAddr) (n4 : Nibble) (s : State) : Host.Outcome State Fault Refusal :=
  .next (arithFinish s (ea s m) (aluSub s.psw.bcd (readM s m) n4 false))

/-- `SUBC r, m` (R203). -/
def execSubcR (r : Nibble) (m : DAddr) (s : State) : Host.Outcome State Fault Refusal :=
  .next (arithFinish s (gr s r) (aluSub s.psw.bcd (readR s r) (readM s m) s.psw.cy))

/-- `SUBC m, #n4` (R204). -/
def execSubcI (m : DAddr) (n4 : Nibble) (s : State) : Host.Outcome State Fault Refusal :=
  .next (arithFinish s (ea s m) (aluSub s.psw.bcd (readM s m) n4 s.psw.cy))

end Sys2Proof.Machine
end

