-- ==== Sys2Proof/Machine/Branch.lean ====
section
/-! DEFINITION. Branch, call and return (46_branch_subroutine.md). PC already points past the instruction (R22). -/

namespace Sys2Proof.Machine

/-- `BR addr`, page 0 (R281). -/
def execBrPage0 (addr : BitVec 11) (s : State) : Host.Outcome State Fault Refusal :=
  .next (setPc s ((0 : BitVec 1) ++ addr))

/-- `BR addr`, page 1 (R281). -/
def execBrPage1 (addr : BitVec 11) (s : State) : Host.Outcome State Fault Refusal :=
  .next (setPc s ((1 : BitVec 1) ++ addr))

/-- `BR @AR` (R282). -/
def execBrAr (s : State) : Host.Outcome State Fault Refusal :=
  .next (setPc s s.ar)

/-- `CALL addr` (R283): always page 0. -/
def execCall (addr : BitVec 11) (s : State) : Host.Outcome State Fault Refusal :=
  .next (pushThen s s.pc (fun t => setPc t ((0 : BitVec 1) ++ addr)))

/-- `CALL @AR` (R284). -/
def execCallAr (s : State) : Host.Outcome State Fault Refusal :=
  .next (pushThen s s.pc (fun t => setPc t t.ar))

/-- `RET` (R285). -/
def execRet (s : State) : Host.Outcome State Fault Refusal :=
  .next (popThen s (fun v t => setPc t v))

/-- `RETSK` (R286). -/
def execRetsk (s : State) : Host.Outcome State Fault Refusal :=
  .next (popThen s (fun v t => { setPc t v with skip := true }))

/-- `RETI` (R287). -/
def execReti (s : State) : Host.Outcome State Fault Refusal :=
  .next (returnFromInterrupt s)

end Sys2Proof.Machine
end

