-- ==== Sys2Proof/Machine/Logic.lean ====
section
/-! DEFINITION. Logical instructions (42_logic.md): always stored, no flag, whatever CMP and BCD are (R210). -/

namespace Sys2Proof.Machine

/-- `OR r, m` (R211). -/
def execOrR (r : Nibble) (m : DAddr) (s : State) : Host.Outcome State Fault Refusal :=
  .next (memWrite s (gr s r) (readR s r ||| readM s m))

/-- `OR m, #n4` (R212). -/
def execOrI (m : DAddr) (n4 : Nibble) (s : State) : Host.Outcome State Fault Refusal :=
  .next (memWrite s (ea s m) (readM s m ||| n4))

/-- `AND r, m` (R213). -/
def execAndR (r : Nibble) (m : DAddr) (s : State) : Host.Outcome State Fault Refusal :=
  .next (memWrite s (gr s r) (readR s r &&& readM s m))

/-- `AND m, #n4` (R214). -/
def execAndI (m : DAddr) (n4 : Nibble) (s : State) : Host.Outcome State Fault Refusal :=
  .next (memWrite s (ea s m) (readM s m &&& n4))

/-- `XOR r, m` (R215). -/
def execXorR (r : Nibble) (m : DAddr) (s : State) : Host.Outcome State Fault Refusal :=
  .next (memWrite s (gr s r) (readR s r ^^^ readM s m))

/-- `XOR m, #n4` (R216). -/
def execXorI (m : DAddr) (n4 : Nibble) (s : State) : Host.Outcome State Fault Refusal :=
  .next (memWrite s (ea s m) (readM s m ^^^ n4))

end Sys2Proof.Machine
end

