-- ==== Sys2Proof/Machine/System.lean ====
section
/-! DEFINITION. Interrupt enable, standby and NOP (47_interrupt_other.md). -/

namespace Sys2Proof.Machine

/-- `EI` (R300): INTE follows at the end of the next instruction (`endOfStep`). -/
def execEi (s : State) : Host.Outcome State Fault Refusal :=
  .next { s with eiPending := true }

/-- `DI` (R301, D18). -/
def execDi (s : State) : Host.Outcome State Fault Refusal :=
  .next { s with inte := false, eiPending := false }

/-- `STOP s` (R302, R463-R465): initialises for 0000B, is ignored where its condition holds already, else enters the mode.
Prohibited operands are refused (D14), entering with timer 1 on timer 0 too (D26). -/
def execStop (c : Nibble) (s : State) : Host.Outcome State Fault Refusal :=
  if stopOperandOk c then
    if c = 0 then .next (initStop s)
    else if stopRelease s c s.irqDly then .next s
    else if s.tm1.ck = 3 then .refused .stopClockedByTimer0
    else .next (enterStop s c)
  else .refused .standbyOperand

/-- `HALT h` (R303, R461): ignored where its condition holds already, else enters the mode; bit 2 is refused (D14). -/
def execHalt (h : Nibble) (s : State) : Host.Outcome State Fault Refusal :=
  if h.getLsbD 2 then .refused .standbyOperand
  else if haltRelease s h s.irqDly then .next s
  else .next { s with mode := .halt h }

/-- `NOP` (R304). -/
def execNop (s : State) : Host.Outcome State Fault Refusal := .next s

end Sys2Proof.Machine
end

