-- ==== Sys2Proof/Machine/Test.lean ====
section
/-! DEFINITION. Bit test, compare (43_test_compare.md) and rotation (44_rotate.md). -/

namespace Sys2Proof.Machine

/-- `skip` where the condition holds (R220). -/
def skipIf (s : State) (c : Bool) : State := if c then { s with skip := true } else s

/-- CMP <- 0, as SKT and SKF do after reading their operand (R221). -/
def clearCmp (s : State) : State := { s with psw := { s.psw with cmp := false } }

/-- `SKT m, #n` (R221). -/
def execSkt (m : DAddr) (n : Nibble) (s : State) : Host.Outcome State Fault Refusal :=
  .next (skipIf (clearCmp s) (decide (readM s m &&& n = n)))

/-- `SKF m, #n` (R222). -/
def execSkf (m : DAddr) (n : Nibble) (s : State) : Host.Outcome State Fault Refusal :=
  .next (skipIf (clearCmp s) (decide (readM s m &&& n = 0)))

/-- `SKE m, #n4` (R223). -/
def execSke (m : DAddr) (n4 : Nibble) (s : State) : Host.Outcome State Fault Refusal :=
  .next (skipIf s (decide (readM s m = n4)))

/-- `SKNE m, #n4` (R224). -/
def execSkne (m : DAddr) (n4 : Nibble) (s : State) : Host.Outcome State Fault Refusal :=
  .next (skipIf s (decide (readM s m ≠ n4)))

/-- `SKGE m, #n4` (R225), unsigned. -/
def execSkge (m : DAddr) (n4 : Nibble) (s : State) : Host.Outcome State Fault Refusal :=
  .next (skipIf s (decide (n4.toNat ≤ (readM s m).toNat)))

/-- `SKLT m, #n4` (R226), unsigned. -/
def execSklt (m : DAddr) (n4 : Nibble) (s : State) : Host.Outcome State Fault Refusal :=
  .next (skipIf s (decide ((readM s m).toNat < n4.toNat)))

/-- `RORC r` (R240): CY first, then the register, so that a store into PSW wins (R242). -/
def execRorc (r : Nibble) (s : State) : Host.Outcome State Fault Refusal :=
  .next (memWrite { s with psw := { s.psw with cy := (readR s r).getLsbD 0 } } (gr s r)
    (rotateRight s.psw.cy (readR s r)))

end Sys2Proof.Machine
end

