-- ==== Sys2Proof/Machine/Transfer.lean ====
section
/-! DEFINITION. Transfer instructions (45_transfer.md). -/

namespace Sys2Proof.Machine

/-- A register-file or peripheral access as an outcome. -/
def outcomeOf (x : Except Refusal State) : Host.Outcome State Fault Refusal :=
  match x with
  | .ok t => .next t
  | .error e => .refused e

/-- `LD r, m` (R246). -/
def execLd (r : Nibble) (m : DAddr) (s : State) : Host.Outcome State Fault Refusal :=
  .next (memWrite s (gr s r) (readM s m))

/-- `ST m, r` (R247). -/
def execSt (m : DAddr) (r : Nibble) (s : State) : Host.Outcome State Fault Refusal :=
  .next (memWrite s (ea s m) (readR s r))

/-- `MOV @r, m` (R248). -/
def execMovIndDst (r : Nibble) (m : DAddr) (s : State) : Host.Outcome State Fault Refusal :=
  .next (memWrite s (ia s m r) (readM s m))

/-- `MOV m, @r` (R249). -/
def execMovIndSrc (m : DAddr) (r : Nibble) (s : State) : Host.Outcome State Fault Refusal :=
  .next (memWrite s (ea s m) (memRead s (ia s m r)))

/-- `MOV m, #n4` (R250). -/
def execMovI (m : DAddr) (n4 : Nibble) (s : State) : Host.Outcome State Fault Refusal :=
  .next (memWrite s (ea s m) n4)

/-- `MOVT DBF, @AR` (R251): push the return address, read the word at AR, pop. Its two cycles are one step. -/
def execMovt (s : State) : Host.Outcome State Fault Refusal :=
  .next (pushThen s s.pc (fun t => popThen (dbfWrite (setPc t t.ar) (romRead t t.ar)) (fun v u => setPc u v)))

/-- `PUSH AR` (R252). -/
def execPushAr (s : State) : Host.Outcome State Fault Refusal :=
  .next (pushThen s s.ar (fun t => t))

/-- `POP AR` (R253). -/
def execPopAr (s : State) : Host.Outcome State Fault Refusal :=
  .next (popThen s (fun v t => setAr t v))

/-- `PEEK WR, rf` (R254). -/
def execPeek (rf : DAddr) (s : State) : Host.Outcome State Fault Refusal :=
  .next { s with wr := rfRead s rf }

/-- `POKE rf, WR` (R255). -/
def execPoke (rf : DAddr) (s : State) : Host.Outcome State Fault Refusal :=
  outcomeOf (rfWrite s rf s.wr)

/-- `GET DBF, p` (R256). -/
def execGet (p : DAddr) (s : State) : Host.Outcome State Fault Refusal :=
  outcomeOf (periRead s (periReg p))

/-- `PUT p, DBF` (R257). -/
def execPut (p : DAddr) (s : State) : Host.Outcome State Fault Refusal :=
  outcomeOf (periWrite s (periReg p) (dbfRead s))

end Sys2Proof.Machine
end

