-- ==== Sys2Proof/Machine/Dispatch.lean ====
section
/-! DEFINITION. The meaning of every instruction, one arm each. -/

namespace Sys2Proof.Machine

/-- The effect of an instruction on a state whose PC already points past it (R22). -/
def exec (i : Instr) (s : State) : Host.Outcome State Fault Refusal :=
  match i with
  | .addR r m => Sys2Proof.Machine.execAddR r m s
  | .addI m n4 => Sys2Proof.Machine.execAddI m n4 s
  | .addcR r m => Sys2Proof.Machine.execAddcR r m s
  | .addcI m n4 => Sys2Proof.Machine.execAddcI m n4 s
  | .incAr => Sys2Proof.Machine.execIncAr s
  | .incIx => Sys2Proof.Machine.execIncIx s
  | .subR r m => Sys2Proof.Machine.execSubR r m s
  | .subI m n4 => Sys2Proof.Machine.execSubI m n4 s
  | .subcR r m => Sys2Proof.Machine.execSubcR r m s
  | .subcI m n4 => Sys2Proof.Machine.execSubcI m n4 s
  | .orR r m => Sys2Proof.Machine.execOrR r m s
  | .orI m n4 => Sys2Proof.Machine.execOrI m n4 s
  | .andR r m => Sys2Proof.Machine.execAndR r m s
  | .andI m n4 => Sys2Proof.Machine.execAndI m n4 s
  | .xorR r m => Sys2Proof.Machine.execXorR r m s
  | .xorI m n4 => Sys2Proof.Machine.execXorI m n4 s
  | .skt m n => Sys2Proof.Machine.execSkt m n s
  | .skf m n => Sys2Proof.Machine.execSkf m n s
  | .ske m n4 => Sys2Proof.Machine.execSke m n4 s
  | .skne m n4 => Sys2Proof.Machine.execSkne m n4 s
  | .skge m n4 => Sys2Proof.Machine.execSkge m n4 s
  | .sklt m n4 => Sys2Proof.Machine.execSklt m n4 s
  | .rorc r => Sys2Proof.Machine.execRorc r s
  | .ld r m => Sys2Proof.Machine.execLd r m s
  | .st m r => Sys2Proof.Machine.execSt m r s
  | .movIndDst r m => Sys2Proof.Machine.execMovIndDst r m s
  | .movIndSrc m r => Sys2Proof.Machine.execMovIndSrc m r s
  | .movI m n4 => Sys2Proof.Machine.execMovI m n4 s
  | .movt => Sys2Proof.Machine.execMovt s
  | .pushAr => Sys2Proof.Machine.execPushAr s
  | .popAr => Sys2Proof.Machine.execPopAr s
  | .peek rf => Sys2Proof.Machine.execPeek rf s
  | .poke rf => Sys2Proof.Machine.execPoke rf s
  | .get p => Sys2Proof.Machine.execGet p s
  | .put p => Sys2Proof.Machine.execPut p s
  | .brPage0 addr => Sys2Proof.Machine.execBrPage0 addr s
  | .brPage1 addr => Sys2Proof.Machine.execBrPage1 addr s
  | .brAr => Sys2Proof.Machine.execBrAr s
  | .call addr => Sys2Proof.Machine.execCall addr s
  | .callAr => Sys2Proof.Machine.execCallAr s
  | .ret => Sys2Proof.Machine.execRet s
  | .retsk => Sys2Proof.Machine.execRetsk s
  | .reti => Sys2Proof.Machine.execReti s
  | .ei => Sys2Proof.Machine.execEi s
  | .di => Sys2Proof.Machine.execDi s
  | .stop c => Sys2Proof.Machine.execStop c s
  | .halt h => Sys2Proof.Machine.execHalt h s
  | .nop => Sys2Proof.Machine.execNop s

end Sys2Proof.Machine
end

