-- ==== Sys2Proof/Machine/Run.lean ====
section
/-! DEFINITION. One step of the machine in every mode, before the reset signal of the step is cleared. -/

namespace Sys2Proof.Machine

/-- One step in mode RUN (R220): fetch, decode, execute or consume, then the end of the step. -/
def runStep (s : State) : Host.Outcome State Fault Refusal :=
  if s.skip then .next (skipStep s)
  else
    match decode s.cfg.part (fetch s) with
    | .error _ => .refused .unassignedEncoding
    | .ok i =>
      match exec i (afterFetch s) with
      | .next t => .next (completeStep (isEi i) (fetch s) s t)
      | .fault f => .fault f
      | .refused r => .refused r

/-- One step in the present mode (R85). -/
def modeStep (s : State) : Host.Outcome State Fault Refusal :=
  match s.mode with
  | .run => runStep s
  | .halt h => .next (haltCycle h s)
  | .stop c => .next (stopCycle c s)
  | .wait w grow => .next (waitCycle w grow s)
  | .held standby oscStopped => .next (releaseReset standby oscStopped s)

/-- One step with what overrides every mode first: test and programming voltages (R512, R530), then the reset signal
(R474, R501). -/
def stepCore (s : State) : Host.Outcome State Fault Refusal :=
  if s.pins.overVdd then .refused .testMode
  else if s.pins.vppProgram && decide (s.cfg.part = .upd17P149) then .refused .promMode
  else if resetAsserted s then .next (holdReset s)
  else modeStep s

/-- An outcome whose next state has no reset signal pending (log 20). -/
def settled (x : Host.Outcome State Fault Refusal) : Host.Outcome State Fault Refusal :=
  match x with
  | .next t => .next (clearRstSig t)
  | .fault f => .fault f
  | .refused r => .refused r

/-- The state whose next step fetches and runs the word `w` (logs 5 and 6). -/
def placeWord (s : State) (w : Word) : State :=
  { s with
    rom := romLoad s.rom s.pc w
    mode := .run
    skip := false
    pins := { s.pins with reset := .high, vddLow := false, overVdd := false, vppProgram := false } }

end Sys2Proof.Machine
end

