-- ==== Sys2Proof/Machine/Step.lean ====
section
/-! DEFINITION. The step, and the host's question on a fetched word. -/

namespace Sys2Proof.Machine

/-- One step: an instruction with the interrupt acceptance that follows it, or one cycle of a standby mode, of a wait or of
a held reset (R220, R444, R462, R464, R501). -/
def step (s : State) : Host.Outcome State Fault Refusal := settled (stepCore s)

/-- `s` with the instruction in the low `nbits` bits of `w` where the next step fetches, the CPU running. -/
def State.withFetchWord (s : State) (nbits w : Nat) : State := placeWord s (BitVec.ofNat 16 (w % 2 ^ nbits))

end Sys2Proof.Machine
end

