-- ==== Sys2Proof/Safety.lean ====
section
/-! DEFINITION. The terms statements about the machine are made in: the invariant of every step, what one data-memory write
can reach, and the part of the state no data-memory write reaches. -/

namespace Sys2Proof.Machine

/-- Address `a` has only bits the part's program counter has (R21). -/
def inRange (c : Config) (a : PAddr) : Prop := a &&& c.part.addrMask = a

/-- The mode holds an operand that HALT or STOP accepts, and no STOP or wait after it hangs on timer 0 (R302, R303, D26). -/
def modeLegal (s : State) : Prop :=
  match s.mode with
  | .run => True
  | .halt h => h.getLsbD 2 = false
  | .stop c => stopOperandOk c = true ∧ s.tm1.ck ≠ 3
  | .wait .stopRelease _ => s.tm1.ck ≠ 3
  | .wait .resetA _ => True
  | .wait .resetB _ => True
  | .held _ _ => True

/-- The sequencer is within a conversion: 25 cycles, or 3 (R392, R393). -/
def seqLegal (q : AdcSeq) : Prop :=
  match q with
  | .idle => True
  | .continuous n _ => n < 25
  | .single n _ => n < 3

/-- A pending skip or EI waits for the next instruction, so the CPU runs or a reset holds it (R93, R76, R501). -/
def quietUnlessRunning (s : State) : Prop :=
  match s.mode with
  | .run => True
  | .held _ _ => True
  | .halt _ => s.skip = false ∧ s.eiPending = false
  | .stop _ => s.skip = false ∧ s.eiPending = false
  | .wait _ _ => s.skip = false ∧ s.eiPending = false

/-- What every step keeps. -/
structure Inv (s : State) : Prop where
  /-- BTMCK_MAP is a bijection (D10) -/
  cfg : s.cfg.wf = true
  /-- program memory in canonical form, within the part's size (R100) -/
  romForm : Memory.wf s.rom = true
  romSize : Memory.below s.rom (2 * s.cfg.part.romSize) = true
  /-- RAM in canonical form, 110 nibbles (R28) -/
  ramForm : Memory.wf s.ram = true
  ramSize : Memory.below s.ram 0x6E = true
  ramNibbles : Memory.nibbles s.ram = true
  /-- PC, AR and the address stack hold PCW bits (R21, R25, R34) -/
  pc : inRange s.cfg s.pc
  ar : inRange s.cfg s.ar
  asr0 : inRange s.cfg s.asr.a0
  asr1 : inRange s.cfg s.asr.a1
  asr2 : inRange s.cfg s.asr.a2
  asr3 : inRange s.cfg s.asr.a3
  asr4 : inRange s.cfg s.asr.a4
  /-- SP is 0 to 5 (R26) -/
  sp : s.sp.toNat ≤ 5
  /-- at most three saved PSWORDs (R27) -/
  intsk : s.intsk.length ≤ 3
  /-- IEGMD is one of the three listed codes (R59, D9) -/
  iegmd : s.iegmd ≠ 3
  /-- no modulo register is 00H (R363, D13) -/
  modulo0 : s.tm0.modulo ≠ 0
  modulo1 : s.tm1.modulo ≠ 0
  mode : modeLegal s
  seq : seqLegal s.adc.seq
  /-- only a transfer in progress has unspecified data (D25) -/
  sio : s.sio.tainted = true → s.sio.ts = true
  quiet : quietUnlessRunning s
  /-- no internal reset is pending between steps -/
  rst : s.rstSig = false

/-- The state with everything a data-memory write can reach set to 0: RAM, AR, WR, IX, MPE, RP, PSWORD and the output
latches. Two states with one `offMemory` agree in everything else. -/
def offMemory (s : State) : State :=
  { s with
    ram := []
    ar := 0
    wr := 0
    ix := 0
    mpe := false
    rpRow := 0
    psw := Psword.zero
    ports := { s.ports with latA := 0, latB := 0, latC := 0, latD := 0, latE := 0 } }

/-- The state with everything the hardware changes by itself blanked: counts, results, a transfer or conversion in progress,
request flags, the prescaler, the sample of the outside. Two states with one `quietView` agree in everything else: the
program's registers, memories, latches and every mode bit of the hardware. -/
def quietView (s : State) : State :=
  { s with
    tm0 := { s.tm0 with count := 0 }
    tm1 := { s.tm1 with count := 0 }
    tm1Out := false
    btm := { s.btm with cnt := 0, wdtDiv := false, wdtCarry := false }
    adc := { s.adc with cmp := false, fin := false, adcr := 0, seq := .idle }
    sio := { s.sio with
      ts := false, sfr := 0, cnt := 0, soLatch := false, sckLow := false, sckPrev := false, tainted := false }
    irq := IrqSet.none
    intPrev := false
    prescaler := 0
    pins := Pins.idle
    inputs := []
    freeIdx := 0 }

/-- The output latch behind a port address; other addresses have none, 0. -/
def latchAt (s : State) (a : DAddr) : Nibble :=
  match dloc a with
  | .p0a => s.ports.latA
  | .p0b => s.ports.latB
  | .p0c => s.ports.latC
  | .p0d => s.ports.latD
  | .p0e => s.ports.latE
  | .ram => 0
  | .p0f => 0
  | .ar3 => 0
  | .ar2 => 0
  | .ar1 => 0
  | .ar0 => 0
  | .wr => 0
  | .bank => 0
  | .ixh => 0
  | .ixm => 0
  | .ixl => 0
  | .rph => 0
  | .rpl => 0
  | .psw => 0

/-- `t` differs from `s` at most in the nibble at `a`: every other data address reads the same and has the same latch
behind it, and nothing outside data memory has changed. -/
def onlyNibble (s t : State) (a : DAddr) : Prop :=
  offMemory t = offMemory s ∧ ∀ b : DAddr, b ≠ a → memRead t b = memRead s b ∧ latchAt t b = latchAt s b

/-- `t` differs from `s` at most in the DBF nibbles 0CH-0FH. -/
def onlyDbf (s t : State) : Prop :=
  { t with ram := [] } = { s with ram := [] } ∧
    ∀ b : DAddr, b.toNat < 0x0C ∨ 0x0F < b.toNat → memRead t b = memRead s b

/-- The bits of a nibble at `a` that exist: a write of `v` there reads back as this (R44, R104, R105); ports excepted, whose
read is the pin or the latch. -/
def keptBits (s : State) (a : DAddr) (v : Nibble) : Nibble :=
  match dloc a with
  | .ram => v
  | .ar3 => 0
  | .ar2 => v &&& s.cfg.part.addrMask.extractLsb' 8 4
  | .ar1 => v
  | .ar0 => v
  | .wr => v
  | .bank => 0
  | .ixh => v &&& 0x8
  | .ixm => v &&& 0x7
  | .ixl => v
  | .rph => 0
  | .rpl => v
  | .psw => v
  | .p0a => v
  | .p0b => v
  | .p0c => v
  | .p0d => v
  | .p0e => v
  | .p0f => 0

/-- `a` is no port register (R28). -/
def notPort (a : DAddr) : Prop := a.toNat < 0x6E ∨ 0x73 < a.toNat

/-- The latch a port address has after a write of `v`; 0 where there is none (R328). -/
def latchOf (a : DAddr) (v : Nibble) : Nibble :=
  match dloc a with
  | .p0a => v
  | .p0b => v
  | .p0c => v
  | .p0d => v
  | .p0e => v
  | _ => 0

/-- `t` is `s` with the nibble `v` stored at data address `a`, and nothing else changed (R105, R328): the frame, what the
address reads afterwards, the latch behind a port; P0F keeps everything. -/
def stored (s t : State) (a : DAddr) (v : Nibble) : Prop :=
  onlyNibble s t a ∧ (notPort a → memRead t a = keptBits s a v) ∧ latchAt t a = latchOf a v ∧
    (a = 0x6F → t = s)

/-- The instruction forms that `exec` refuses (R363, R413, R450, D8, D9, D13, D14, D25, D26): every one not listed
completes. -/
def stopsOn (i : Instr) (s : State) : Prop :=
  match i with
  | .poke rf => (rf = 0x1F ∧ s.wr.extractLsb' 0 2 = 3) ∨ (rf = 0x02 ∧ s.wr.getLsbD 3 = true ∧ s.ports.sioen = false)
  | .get p => p ∉ ([0x01, 0x02, 0x03, 0x04, 0x40, 0x45] : List DAddr)
  | .put p =>
    p ∉ ([0x01, 0x02, 0x03, 0x04, 0x40, 0x45] : List DAddr) ∨
      (p ∈ ([0x02, 0x03] : List DAddr) ∧ (dbfRead s).extractLsb' 0 8 = 0)
  | .stop c =>
    c ∉ ([0x0, 0x8, 0x9] : List Nibble) ∨ (c ≠ 0 ∧ stopRelease s c s.irqDly = false ∧ s.tm1.ck = 3)
  | .halt h => h.getLsbD 2 = true
  | _ => False

/-- The A/D input of the selected channel: it is higher than exactly the codes below this number (R390). -/
def analogInput (s : State) : Nat :=
  match (s.adc.ch.extractLsb' 0 2).toNat with
  | 0 => s.pins.ana0
  | 1 => s.pins.ana1
  | 2 => s.pins.ana2
  | _ => s.pins.ana3

/-- The CPU runs, no skip is pending and the outside asserts nothing that overrides it: the next step executes the word at
PC. -/
def executesNext (s : State) : Prop :=
  s.mode = .run ∧ s.skip = false ∧ s.pins.overVdd = false ∧
    (s.pins.vppProgram && decide (s.cfg.part = .upd17P149)) = false ∧ resetAsserted s = false

/-- A timer after a time in which a count pulse comes to it or not (R363). -/
def timerAfter (t : Timer) (pulse : Bool) : Timer :=
  { t with count := if t.en && pulse then (if t.count = t.modulo then 0 else t.count + 1) else t.count }

/-- The pulse is the match of the timer (R363). -/
def timerMatches (t : Timer) (pulse : Bool) : Bool := t.en && pulse && decide (t.count = t.modulo)

/-- `t` holds what the interrupt pin does to `s` in one cycle: an edge that IEGMD selects sets IRQ (R59, R450). -/
def intSampled (s t : State) : Prop :=
  let now := pinInt (nextSample s)
  t.intPrev = now ∧
    (t.irq.int = true ↔ s.irq.int = true ∨
      (s.intPrev = false ∧ now = true ∧ (s.iegmd = 0 ∨ s.iegmd = 2)) ∨
      (s.intPrev = true ∧ now = false ∧ (s.iegmd = 1 ∨ s.iegmd = 2)))

/-- The edge of INT that timer 0 counts comes in the next cycle (R362, D27). -/
def tm0EdgeNext (s : State) : Bool :=
  match s.cfg.tm0ExtEdge with
  | .rising => !s.intPrev && pinInt (nextSample s)
  | .falling => s.intPrev && !pinInt (nextSample s)

/-- `t` holds what one cycle does to the serial interface of `s`, whose clock falls, rises or does both in it (R412): a
transfer in progress sends its top bit with a falling edge and shifts SI in with the rising edge that follows, the eighth
ending it. The data are those of a transfer that nothing disturbs (R414). -/
def serialAfter (s t : State) (falls rises : Bool) : Prop :=
  let low := falls || s.sio.sckLow
  let shifts := rises && low
  let ends := shifts && decide (s.sio.cnt = 7)
  t.sio.ts = !ends ∧ t.irq.sio = (s.irq.sio || ends) ∧ t.sio.cnt = (if shifts then s.sio.cnt + 1 else s.sio.cnt) ∧
    t.sio.sckLow = (low && !rises) ∧ t.sio.hiz = s.sio.hiz ∧ t.sio.ck = s.sio.ck ∧
    (s.sio.tainted = false → s.ports.sioen = true →
      t.sio.soLatch = (if falls then s.sio.sfr.getLsbD 7 else s.sio.soLatch) ∧
      t.sio.sfr = (if shifts then s.sio.sfr.extractLsb' 0 7 ++ BitVec.ofBool ((pinsD (nextSample s)).getLsbD 2)
        else s.sio.sfr) ∧
      t.sio.tainted = false)

/-- The level of the SCK pin in the next cycle, before its clock. -/
def sckNext (s : State) : Bool := (pinsD (nextSample s)).getLsbD 0

/-- The count pulse of the interval timer comes in the next clocked cycle: `BTMCK_MAP` (D10) gives BTMCK one of fx/16, fx/512,
fx/4096 and fx/16384, every 1st, 32nd, 256th or 1024th count of the prescaler (R360, R381, D23). -/
def btmPulseNext (s : State) : Bool :=
  let p := s.prescaler.toNat + 1
  let selected := match s.btm.ck.toNat with
    | 0 => s.cfg.btmck00
    | 1 => s.cfg.btmck01
    | 2 => s.cfg.btmck10
    | _ => s.cfg.btmck11
  match selected with
  | .fx16 => true
  | .fx512 => decide (p % 32 = 0)
  | .fx4096 => decide (p % 256 = 0)
  | .fx16384 => decide (p % 1024 = 0)

/-- The watchdog resets the chip in the next clocked cycle: enabled and with its carry set, it stands at 191, and its count
pulse comes (R383, R473). -/
def wdtResetsNext (s : State) : Bool :=
  s.btm.wdtEn && s.btm.wdtCarry && decide (wdtCount s.btm = 191) && btmPulseNext s

end Sys2Proof.Machine
end

