-- ==== Sys2Proof/Certificates/Slice0/Obligations.lean ====
section
/-! DEFINITION. The statements for the provers. -/

open Sys2Proof Sys2Proof.Machine

/-! ### Encoding -/

/-- R145, R148: decoding the word of an instruction that exists on the part gives the instruction back. -/
def Obligations.DecodeAfterEncode : Prop :=
  ∀ (p : Part) (i : Instr), i.wf p = true → decode p (encode i) = .ok i

/-- R145, R162: a word that decodes is the word of what it decodes to, so no two words mean one instruction, and what it
decodes to exists on the part. -/
def Obligations.EncodeAfterDecode : Prop :=
  ∀ (p : Part) (w : Word) (i : Instr), decode p w = .ok i → encode i = w ∧ i.wf p = true

/-- R145: words written out bit by bit decode to the instructions they stand for. -/
def Obligations.SampleWordsDecode : Prop :=
  decode .upd17149 0b0000001011110011 = .ok (.addR 0x3 0x2F) ∧
  decode .upd17149 0b1001101011111111 = .ok (.subcI 0x2F 0xF) ∧
  decode .upd17149 0b1010001110000101 = .ok (.andI 0x38 0x5) ∧
  decode .upd17149 0b0101001000000000 = .ok (.movIndDst 0x0 0x20) ∧
  decode .upd17149 0b1101001000000000 = .ok (.movIndSrc 0x20 0x0) ∧
  decode .upd17149 0b1110110100001010 = .ok (.movI 0x50 0xA) ∧
  decode .upd17149 0b1111000000110001 = .ok (.skt 0x03 0x1) ∧
  decode .upd17149 0b0011100001110100 = .ok (.rorc 0x4) ∧
  decode .upd17149 0b0011100000110001 = .ok (.peek 0x01) ∧
  decode .upd17149 0b0011101000101011 = .ok (.poke 0x2B) ∧
  decode .upd17149 0b0011110010100000 = .ok (.put 0x40) ∧
  decode .upd17149 0b0110001000000000 = .ok (.brPage0 0x200) ∧
  decode .upd17149 0b1110000000100000 = .ok (.call 0x020) ∧
  decode .upd17149 0b0011110011100000 = .ok .reti ∧
  decode .upd17149 0b0011101111111000 = .ok (.halt 0x8)

/-- R162: exactly the words of its list are unassigned: the three blank operation codes, the page-1 BR on a part without
page 1, and in group 00111B every combination that is no row. -/
def Obligations.UnassignedWords : Prop :=
  ∀ (p : Part) (w : Word),
    (∃ e, decode p w = .error e) ↔
      let op := w.extractLsb' 11 5
      let high := w.extractLsb' 8 3
      let sub := w.extractLsb' 4 4
      let low := w.extractLsb' 0 4
      op = 0b01110 ∨ op = 0b01111 ∨ op = 0b10111 ∨
      (op = 0b01101 ∧ p.pcw < 12) ∨
      (op = 0b00111 ∧
        (sub = 0b0000 ∨ sub = 0b0110 ∨
         (sub ∈ ([0b0001, 0b0100, 0b0101, 0b1000, 0b1001, 0b1100, 0b1101] : List Nibble) ∧ (high ≠ 0 ∨ low ≠ 0)) ∨
         (sub = 0b0111 ∧ high ≠ 0) ∨
         (sub = 0b1110 ∧ (high ∉ ([0, 1, 4] : List (BitVec 3)) ∨ low ≠ 0)) ∨
         (sub = 0b1111 ∧
           (high ∈ ([5, 6, 7] : List (BitVec 3)) ∨ (high ∈ ([0, 1, 4] : List (BitVec 3)) ∧ low ≠ 0)))))

/-! ### The step -/

/-- R22, R220, R520: where the CPU runs and no skip is pending, the step executes the word at PC with PC already past it, then
lets its time pass and ends the step. The time of an instruction is one cycle of the hardware, for MOVT two, of which the
first is the last where an internal reset or a sample that overrides the program comes in it (logs 20, 21); after entering
STOP it is one cycle without a clock (R466); after an internal reset only the sample of the outside is taken (log 20). What a
cycle does is said by StandbyCyclesWait, TimerPeriod, IntervalTimer, WatchdogResets and SerialTransfer. -/
def Obligations.StepRunsDecoded : Prop :=
  (∀ (s : State) (i : Instr), executesNext s → decode s.cfg.part (romRead s s.pc) = .ok i →
    step s = settled
      (match exec i { s with pc := (s.pc + 1) &&& s.cfg.part.addrMask } with
       | .next t => .next (endOfStep (decide (i = .ei)) s.eiPending s.irq
           (passTime (if romRead s s.pc = 0x3810 then 2 else 1) t))
       | .fault f => .fault f
       | .refused r => .refused r)) ∧
  ∀ (t : State) (n : Nat),
    let u := clockedCycle t
    (t.rstSig = false → (∀ c, t.mode ≠ .stop c) →
      passTime 1 t = u ∧
      passTime 2 t = if u.rstSig = true ∨ overridden u = true then u else clockedCycle u) ∧
    (t.rstSig = false → (∃ c, t.mode = .stop c) → passTime n t = stoppedCycle t) ∧
    (t.rstSig = true → passTime n t = nextSample t)

/-- R162, D6: executing an unassigned word is refused. -/
def Obligations.UnassignedWordStops : Prop :=
  ∀ (s : State) (e : DecodeError), executesNext s → decode s.cfg.part (romRead s s.pc) = .error e →
    step s = .refused .unassignedEncoding

/-- R220, R93: a skipped word is consumed whatever it is, as a NOP in the step of an executed one: with PC past it and SKIP
cleared its time passes, and the end of the step sets INTE after an EI and tests for an acceptance (R300, R444; what these
two do is said by `StepRunsDecoded` and `EnableIsLate`). By itself it changes nothing: IRQ_DLY takes the request flags, and
nothing changes but what the hardware changes by itself (`quietView`): every register of the program, PSWORD, both stacks,
RAM, the ports with their latches, the enable flags, IEGMD, the modulo registers and all mode bits of the timers, the
interval timer, the converter and the serial interface stay. Its time passes: one cycle of the prescaler, two for a skipped
MOVT (R520), if no sample overrides the program in the first. The second part is stated
with the watchdog off and no interrupt to come, which act on any step. -/
def Obligations.SkippedWordDoesNothing : Prop :=
  (∀ s : State, s.mode = .run → s.skip = true → overridden s = false →
    step s = settled (.next (endOfStep false s.eiPending s.irq (passTime (if romRead s s.pc = 0x3810 then 2 else 1)
      { s with pc := (s.pc + 1) &&& s.cfg.part.addrMask, skip := false })))) ∧
  ∀ s : State, s.mode = .run → s.skip = true → s.pins.overVdd = false → s.pins.vppProgram = false →
    resetAsserted s = false → s.rstSig = false → s.btm.wdtEn = false → s.inte = false → s.eiPending = false →
    ∃ t, step s = .next t ∧
      quietView t = quietView { s with pc := (s.pc + 1) &&& s.cfg.part.addrMask, skip := false, irqDly := s.irq } ∧
      t.mode = .run ∧ t.inte = false ∧ t.ip = s.ip ∧ t.iegmd = s.iegmd ∧ t.ports = s.ports ∧ t.psw = s.psw ∧
      t.tm0.modulo = s.tm0.modulo ∧ t.tm1.modulo = s.tm1.modulo ∧ t.tm0.en = s.tm0.en ∧ t.tm0.ck = s.tm0.ck ∧
      t.tm1.en = s.tm1.en ∧ t.tm1.ck = s.tm1.ck ∧ t.btm.isel = s.btm.isel ∧ t.btm.ck = s.btm.ck ∧
      t.adc.soft = s.adc.soft ∧ t.adc.ch = s.adc.ch ∧ t.sio.hiz = s.sio.hiz ∧ t.sio.ck = s.sio.ck ∧
      (overridden (nextSample s) = false →
        t.prescaler = s.prescaler + (if romRead s s.pc = 0x3810 then 2 else 1)) ∧
      ∀ a : DAddr, notPort a → memRead t a = memRead s a

/-- Which instruction forms do not complete, and that every other one does, in every state (R440, R481). -/
def Obligations.EveryInstructionCompletes : Prop :=
  ∀ (i : Instr) (s : State), (∃ t, exec i s = .next t) ↔ ¬ stopsOn i s

/-! ### Invariants -/

/-- The state after reset has the invariant. -/
def Obligations.ResetHasInvariant : Prop := Inv State.reset

/-- Every step keeps the invariant: memory in canonical form and within its bounds, PC, AR and the address stack within the
part's width, SP at most 5, at most three saved PSWORDs, no prohibited mode, edge selection or modulo value (the last three
by the spec's decisions D9, D13, D14, D26: logs 22 and 25). -/
def Obligations.StepKeepsInvariant : Prop :=
  ∀ s t : State, Inv s → step s = .next t → Inv t

/-- R102: no step writes program memory; nor does any change the parameters of the chip, which the model keeps in a field that
no step writes (log 1, the model's choice). -/
def Obligations.StepKeepsProgram : Prop :=
  ∀ s t : State, step s = .next t → t.rom = s.rom ∧ t.cfg = s.cfg

/-! ### Data memory and operands -/

/-- R44, R104, R105, R328: a data-memory write changes the one nibble it names, or the latch of the one port, drops its fixed-0
bits, and changes nothing else; a write to P0F changes nothing at all. -/
def Obligations.WriteStoresOneNibble : Prop :=
  ∀ (s : State) (a : DAddr) (v : Nibble), stored s (memWrite s a v) a v

/-- R36: BANK reads 0 and ignores writes. -/
def Obligations.BankIsFixedZero : Prop :=
  ∀ (s : State) (v : Nibble), memRead s 0x79 = 0 ∧ memWrite s 0x79 v = s

/-- R106, R107, R109: general registers are never index-modified; the direct operand is OR-ed with IX while IXE is 1; MP
gives the row of `@r` while MPE is 1, with IXE = 1 too by the spec's decision D16 (log 29). -/
def Obligations.OperandAddresses : Prop :=
  ∀ (s : State) (r : Nibble) (m : DAddr),
    (gr s r).toNat = 16 * s.rpRow.toNat + r.toNat ∧
    (s.psw.ixe = false → ea s m = m) ∧ (s.psw.ixe = true → ea s m = m ||| s.ix) ∧
    (s.mpe = true → (ia s m r).toNat = 16 * (s.ix.toNat / 16) + (memRead s (gr s r)).toNat) ∧
    (s.mpe = false → s.psw.ixe = false → (ia s m r).toNat = 16 * (m.toNat / 16) + (memRead s (gr s r)).toNat) ∧
    (s.mpe = false → s.psw.ixe = true →
      (ia s m r).toNat = 16 * ((m ||| s.ix).toNat / 16) + (memRead s (gr s r)).toNat)

/-- R327: each bit of each port reads its latch or its pin, as the table of the rule says. R329, R331, by decision D20 (log 11):
the level of a pin is what the chip drives, push-pull on ports A, B and C, a low level alone on D and E; else what the outside
drives; else 1 by a pull-up; else unspecified. In a held reset the chip drives nothing (R501). -/
def Obligations.PortReads : Prop :=
  ∀ s : State,
    (s.ports.gio.getLsbD 0 = true → memRead s 0x70 = s.ports.latA) ∧
    (s.ports.gio.getLsbD 0 = false → memRead s 0x70 = pinsA s) ∧
    (s.ports.gio.getLsbD 1 = true → memRead s 0x71 = s.ports.latB) ∧
    (s.ports.gio.getLsbD 1 = false → memRead s 0x71 = pinsB s) ∧
    (s.ports.gio.getLsbD 2 = true → memRead s 0x6E = s.ports.latE) ∧
    (s.ports.gio.getLsbD 2 = false → memRead s 0x6E = pinsE s) ∧
    (∀ n, n < 4 → (memRead s 0x72).getLsbD n =
      if s.ports.cbio.getLsbD n || s.ports.cidi.getLsbD n then s.ports.latC.getLsbD n else (pinsC s).getLsbD n) ∧
    (memRead s 0x73).getLsbD 3 =
      (if s.ports.tm1osel || s.ports.dbio.getLsbD 3 then s.ports.latD.getLsbD 3 else (pinsD s).getLsbD 3) ∧
    (memRead s 0x73).getLsbD 2 =
      (if !s.ports.sioen && s.ports.dbio.getLsbD 2 then s.ports.latD.getLsbD 2 else (pinsD s).getLsbD 2) ∧
    (memRead s 0x73).getLsbD 1 =
      (if (if s.ports.sioen then !s.sio.hiz else s.ports.dbio.getLsbD 1) then s.ports.latD.getLsbD 1
        else (pinsD s).getLsbD 1) ∧
    (memRead s 0x73).getLsbD 0 =
      (if (if s.ports.sioen then decide (s.sio.ck ≠ 0) else s.ports.dbio.getLsbD 0) then s.ports.latD.getLsbD 0
        else (pinsD s).getLsbD 0) ∧
    (memRead s 0x6F).getLsbD 3 = false ∧ (memRead s 0x6F).getLsbD 2 = false ∧
    (s.ports.cidi ≠ 0 → (memRead s 0x6F).getLsbD 1 = false) ∧
    (s.ports.cidi = 0 → (memRead s 0x6F).getLsbD 1 = pinP0F1 s) ∧ (memRead s 0x6F).getLsbD 0 = pinP0F0 s ∧
    (let held := pinsReleased s
     let pin := fun (drives level : Bool) (outside : PortDrive) (n : Nat) (pull free : Bool) =>
       if !held && drives then level
       else if outside.driven.getLsbD n then outside.level.getLsbD n
       else pull || free
     (held = true ↔ ∃ b o, s.mode = .held b o) ∧
     ∃ f : Nat → Nibble,
       (∀ n, n < 4 →
         (pinsA s).getLsbD n =
           pin (s.ports.gio.getLsbD 0) (s.ports.latA.getLsbD n) s.pins.p0a n (s.ports.gpu.getLsbD 0) ((f 0).getLsbD n) ∧
         (pinsB s).getLsbD n =
           pin (s.ports.gio.getLsbD 1) (s.ports.latB.getLsbD n) s.pins.p0b n (s.ports.gpu.getLsbD 1) ((f 1).getLsbD n) ∧
         (pinsC s).getLsbD n =
           pin (s.ports.cbio.getLsbD n) (s.ports.latC.getLsbD n) s.pins.p0c n false ((f 2).getLsbD n) ∧
         (pinsE s).getLsbD n =
           pin (s.ports.gio.getLsbD 2 && !s.ports.latE.getLsbD n) false s.pins.p0e n (s.ports.gpu.getLsbD 2)
             ((f 3).getLsbD n)) ∧
       (pinsD s).getLsbD 3 =
         pin (if s.ports.tm1osel then !s.tm1Out else s.ports.dbio.getLsbD 3 && !s.ports.latD.getLsbD 3) false s.pins.p0d 3
           (s.ports.dbpu.getLsbD 3) ((f 4).getLsbD 3) ∧
       (pinsD s).getLsbD 2 =
         pin (!s.ports.sioen && s.ports.dbio.getLsbD 2 && !s.ports.latD.getLsbD 2) false s.pins.p0d 2
           (s.ports.dbpu.getLsbD 2) ((f 4).getLsbD 2) ∧
       (pinsD s).getLsbD 1 =
         pin (if s.ports.sioen then !s.sio.hiz && !s.sio.soLatch
           else s.ports.dbio.getLsbD 1 && !s.ports.latD.getLsbD 1) false s.pins.p0d 1
           (s.ports.dbpu.getLsbD 1) ((f 4).getLsbD 1) ∧
       (pinsD s).getLsbD 0 =
         pin (if s.ports.sioen then decide (s.sio.ck ≠ 0) && (s.sio.ts && s.sio.sckLow)
           else s.ports.dbio.getLsbD 0 && !s.ports.latD.getLsbD 0) false s.pins.p0d 0
           (s.ports.dbpu.getLsbD 0) ((f 4).getLsbD 0)) ∧
    (let input := fun (outside : Drive) (pull level : Bool) =>
       (outside = .low → level = false) ∧ (outside = .high → level = true) ∧
       (outside = .openPin → pull = true → s.cfg.part ≠ .upd17P149 → level = true)
     input s.pins.p0f0 s.cfg.optP0F0Pullup (pinP0F0 s) ∧ input s.pins.p0f1 s.cfg.optP0F1Pullup (pinP0F1 s) ∧
     input s.pins.int s.cfg.optIntPullup (pinInt s) ∧ input s.pins.reset s.cfg.optResetPullup (pinReset s))

/-! ### Arithmetic, logic, rotation -/

/-- R180: the binary sum and difference, as integers. -/
def Obligations.BinaryArithmetic : Prop :=
  ∀ (a b : Nibble) (c : Bool),
    (aluAdd false a b c).res.toNat + 16 * (aluAdd false a b c).cy.toNat = a.toNat + b.toNat + c.toNat ∧
    ((aluSub false a b c).res.toNat : Int) - 16 * (aluSub false a b c).cy.toNat = (a.toNat : Int) - b.toNat - c.toNat

/-- R181: the two correction tables, entry by entry, the binary result 0 to 31 and -16 to 15; and what they mean: a sum of at
most 19 and a difference from -10 to 9 is decimal, every other result sets CY and is 1010B or more. -/
def Obligations.DecimalArithmetic : Prop :=
  ((List.range 32).map (fun s => bcdAdd ⟨decide (16 ≤ s), BitVec.ofNat 4 s⟩)
      = (([0, 1, 2, 3, 4, 5, 6, 7, 8, 9] : List Nibble).map (fun r => ⟨false, r⟩)) ++
        (([0, 1, 2, 3, 4, 5, 6, 7, 8, 9, 0xE, 0xF, 0xC, 0xD, 0xE, 0xF, 0xC, 0xD, 0xA, 0xB, 0xC, 0xD] :
          List Nibble).map (fun r => ⟨true, r⟩))) ∧
  ((List.range 16).map (fun d => bcdSub ⟨false, BitVec.ofNat 4 d⟩)
      = (([0, 1, 2, 3, 4, 5, 6, 7, 8, 9] : List Nibble).map (fun r => ⟨false, r⟩)) ++
        (([0xC, 0xD, 0xE, 0xF, 0xC, 0xD] : List Nibble).map (fun r => ⟨true, r⟩))) ∧
  ((List.range 16).map (fun d => bcdSub ⟨true, BitVec.ofNat 4 d⟩)
      = ([0xE, 0xF, 0xC, 0xD, 0xE, 0xF, 0, 1, 2, 3, 4, 5, 6, 7, 8, 9] : List Nibble).map (fun r => ⟨true, r⟩)) ∧
  ∀ (a b : Nibble) (c : Bool),
    (a.toNat + b.toNat + c.toNat ≤ 19 →
      (aluAdd true a b c).res.toNat + 10 * (aluAdd true a b c).cy.toNat = a.toNat + b.toNat + c.toNat ∧
      (aluAdd true a b c).res.toNat ≤ 9) ∧
    (20 ≤ a.toNat + b.toNat + c.toNat → (aluAdd true a b c).cy = true ∧ 10 ≤ (aluAdd true a b c).res.toNat) ∧
    (b.toNat + c.toNat ≤ a.toNat + 10 → a.toNat ≤ b.toNat + c.toNat + 9 →
      ((aluSub true a b c).res.toNat : Int) - 10 * (aluSub true a b c).cy.toNat
        = (a.toNat : Int) - b.toNat - c.toNat ∧ (aluSub true a b c).res.toNat ≤ 9) ∧
    (a.toNat + 10 < b.toNat + c.toNat ∨ b.toNat + c.toNat + 9 < a.toNat →
      (aluSub true a b c).cy = true ∧ 10 ≤ (aluSub true a b c).res.toNat)

/-- R180, R182-R185, R201-R204: with CMP = 0, ADD, ADDC, SUB and SUBC in both forms store the result in the first operand and
write CY and Z, and change nothing else; a store into the status word wins over the flags (R45). -/
def Obligations.ArithmeticStores : Prop :=
  ∀ (s : State) (r n4 : Nibble) (m : DAddr), s.psw.cmp = false →
    let done := fun (i : Instr) (dest : DAddr) (x : AluOut) =>
      ∃ t, exec i s = .next t ∧
        stored { s with psw := { s.psw with cy := x.cy, z := decide (x.res = 0) } } t dest x.res
    done (.addR r m) (gr s r) (aluAdd s.psw.bcd (memRead s (gr s r)) (memRead s (ea s m)) false) ∧
    done (.addI m n4) (ea s m) (aluAdd s.psw.bcd (memRead s (ea s m)) n4 false) ∧
    done (.addcR r m) (gr s r) (aluAdd s.psw.bcd (memRead s (gr s r)) (memRead s (ea s m)) s.psw.cy) ∧
    done (.addcI m n4) (ea s m) (aluAdd s.psw.bcd (memRead s (ea s m)) n4 s.psw.cy) ∧
    done (.subR r m) (gr s r) (aluSub s.psw.bcd (memRead s (gr s r)) (memRead s (ea s m)) false) ∧
    done (.subI m n4) (ea s m) (aluSub s.psw.bcd (memRead s (ea s m)) n4 false) ∧
    done (.subcR r m) (gr s r) (aluSub s.psw.bcd (memRead s (gr s r)) (memRead s (ea s m)) s.psw.cy) ∧
    done (.subcI m n4) (ea s m) (aluSub s.psw.bcd (memRead s (ea s m)) n4 s.psw.cy)

/-- R42, R43: with CMP = 1 the eight arithmetic forms change CY and Z alone, and Z is only ever cleared. -/
def Obligations.CompareModeStoresNothing : Prop :=
  ∀ (s : State) (r n4 : Nibble) (m : DAddr), s.psw.cmp = true →
    let done := fun (i : Instr) (x : AluOut) =>
      exec i s = .next { s with psw := { s.psw with cy := x.cy, z := s.psw.z && decide (x.res = 0) } }
    done (.addR r m) (aluAdd s.psw.bcd (memRead s (gr s r)) (memRead s (ea s m)) false) ∧
    done (.addI m n4) (aluAdd s.psw.bcd (memRead s (ea s m)) n4 false) ∧
    done (.addcR r m) (aluAdd s.psw.bcd (memRead s (gr s r)) (memRead s (ea s m)) s.psw.cy) ∧
    done (.addcI m n4) (aluAdd s.psw.bcd (memRead s (ea s m)) n4 s.psw.cy) ∧
    done (.subR r m) (aluSub s.psw.bcd (memRead s (gr s r)) (memRead s (ea s m)) false) ∧
    done (.subI m n4) (aluSub s.psw.bcd (memRead s (ea s m)) n4 false) ∧
    done (.subcR r m) (aluSub s.psw.bcd (memRead s (gr s r)) (memRead s (ea s m)) s.psw.cy) ∧
    done (.subcI m n4) (aluSub s.psw.bcd (memRead s (ea s m)) n4 s.psw.cy)

/-- R186, R187: INC AR adds 1 to the PCW bits of AR, INC IX to the 7 bits of IX, both wrapping, and nothing else
changes; that the flags stay is the spec's decision D17 (log 30). -/
def Obligations.IncrementsWrap : Prop :=
  ∀ s : State,
    (∃ t, exec .incAr s = .next t ∧ { t with ar := s.ar } = s ∧
      t.ar.toNat = (s.ar.toNat + 1) % 2 ^ s.cfg.part.pcw) ∧
    (∃ t, exec .incIx s = .next t ∧ { t with ix := s.ix } = s ∧ t.ix.toNat = (s.ix.toNat + 1) % 128)

/-- R211-R216, R210: the six logical forms store the bitwise result in the first operand, whatever CMP and BCD are, and
change nothing else. -/
def Obligations.LogicStores : Prop :=
  ∀ (s : State) (r n4 : Nibble) (m : DAddr),
    let done := fun (i : Instr) (dest : DAddr) (v : Nibble) => ∃ t, exec i s = .next t ∧ stored s t dest v
    done (.orR r m) (gr s r) (memRead s (gr s r) ||| memRead s (ea s m)) ∧
    done (.orI m n4) (ea s m) (memRead s (ea s m) ||| n4) ∧
    done (.andR r m) (gr s r) (memRead s (gr s r) &&& memRead s (ea s m)) ∧
    done (.andI m n4) (ea s m) (memRead s (ea s m) &&& n4) ∧
    done (.xorR r m) (gr s r) (memRead s (gr s r) ^^^ memRead s (ea s m)) ∧
    done (.xorI m n4) (ea s m) (memRead s (ea s m) ^^^ n4)

/-- R221, R222: SKT skips when every bit of the mask is 1 in the operand, SKF when every one is 0; both clear CMP and change
nothing else. -/
def Obligations.BitTestsSkip : Prop :=
  ∀ (s : State) (m : DAddr) (n : Nibble),
    (∃ t, exec (.skt m n) s = .next t ∧
      { t with skip := s.skip } = { s with psw := { s.psw with cmp := false } } ∧
      (t.skip = true ↔ s.skip = true ∨
        ∀ k, k < 4 → n.getLsbD k = true → (memRead s (ea s m)).getLsbD k = true)) ∧
    (∃ t, exec (.skf m n) s = .next t ∧
      { t with skip := s.skip } = { s with psw := { s.psw with cmp := false } } ∧
      (t.skip = true ↔ s.skip = true ∨
        ∀ k, k < 4 → n.getLsbD k = true → (memRead s (ea s m)).getLsbD k = false))

/-- R223-R227: the four comparisons skip on equal, unequal, not less and less, unsigned, and change nothing else, CMP and
the flags included. -/
def Obligations.ComparisonsSkip : Prop :=
  ∀ (s : State) (m : DAddr) (n4 : Nibble),
    let done := fun (i : Instr) (c : Prop) =>
      ∃ t, exec i s = .next t ∧ { t with skip := s.skip } = s ∧ (t.skip = true ↔ s.skip = true ∨ c)
    done (.ske m n4) ((memRead s (ea s m)).toNat = n4.toNat) ∧
    done (.skne m n4) ((memRead s (ea s m)).toNat ≠ n4.toNat) ∧
    done (.skge m n4) (n4.toNat ≤ (memRead s (ea s m)).toNat) ∧
    done (.sklt m n4) ((memRead s (ea s m)).toNat < n4.toNat)

/-- R240, R241: RORC rotates CY and the general register right as five bits, whatever CMP, BCD, IXE and MPE are; the register
is stored last (R242), and nothing else changes. -/
def Obligations.RotateThroughCarry : Prop :=
  ∀ (s : State) (r : Nibble),
    let before : BitVec 5 := BitVec.ofBool s.psw.cy ++ memRead s (gr s r)
    let after := before.rotateRight 1
    ∃ t, exec (.rorc r) s = .next t ∧
      stored { s with psw := { s.psw with cy := after.getLsbD 4 } } t (gr s r) (after.extractLsb' 0 4)

/-! ### Transfer -/

/-- R246-R250: LD, ST and the three MOVs store the source nibble at the address their operand names, no flag as such, and
change nothing else; the indirect MOVs take the column of `@r` from the general register. -/
def Obligations.TransfersStore : Prop :=
  ∀ (s : State) (r n4 : Nibble) (m : DAddr),
    (∃ t, exec (.ld r m) s = .next t ∧ stored s t (gr s r) (memRead s (ea s m))) ∧
    (∃ t, exec (.st m r) s = .next t ∧ stored s t (ea s m) (memRead s (gr s r))) ∧
    (∃ t, exec (.movI m n4) s = .next t ∧ stored s t (ea s m) n4) ∧
    (∃ t, exec (.movIndDst r m) s = .next t ∧ stored s t (ia s m r) (memRead s (ea s m))) ∧
    (∃ t, exec (.movIndSrc m r) s = .next t ∧ stored s t (ea s m) (memRead s (ia s m r)))

/-- R251: MOVT loads DBF with the program-memory word at AR; PC and SP end as they were, the return address is left behind
in the address stack, and nothing else changes. A full address stack resets the chip. -/
def Obligations.TableReference : Prop :=
  ∀ s : State,
    (inRange s.cfg s.pc → 1 ≤ s.sp.toNat → s.sp.toNat ≤ 5 → ∃ t, exec .movt s = .next t ∧
      dbfRead t = romRead s s.ar ∧
      onlyDbf { s with asr := s.asr.put (s.sp - 1) s.pc } t) ∧
    (s.sp = 0 → exec .movt s = .next (applyReset .stack s))

/-- R252, R253, R245: PUSH AR stores AR below SP, POP AR loads AR from SP; nothing else changes; a full or an empty address
stack resets the chip (R472). -/
def Obligations.AddressStackTransfers : Prop :=
  ∀ s : State,
    (1 ≤ s.sp.toNat → s.sp.toNat ≤ 5 → inRange s.cfg s.ar →
      ∃ t, exec .pushAr s = .next t ∧ t.sp.toNat + 1 = s.sp.toNat ∧ asrGet t t.sp = s.ar ∧
        (∀ k : BitVec 3, k.toNat ≤ 4 → k ≠ t.sp → asrGet t k = asrGet s k) ∧
        { t with sp := s.sp, asr := s.asr } = s) ∧
    (s.sp = 0 → exec .pushAr s = .next (applyReset .stack s)) ∧
    (s.sp.toNat ≤ 4 → inRange s.cfg (asrGet s s.sp) →
      exec .popAr s = .next { s with ar := asrGet s s.sp, sp := s.sp + 1 }) ∧
    (s.sp = 5 → exec .popAr s = .next (applyReset .stack s))

/-- R110, R112, R113, R254, R255: PEEK copies a register-file nibble to WR and changes nothing else; from 40H up PEEK and
POKE act on data memory, and POKE there changes that nibble alone. -/
def Obligations.RegisterFileAlias : Prop :=
  ∀ (s : State) (rf : DAddr),
    exec (.peek rf) s = .next { s with wr := rfRead s rf } ∧
    (0x40 ≤ rf.toNat → rfRead s rf = memRead s rf ∧
      ∃ t, exec (.poke rf) s = .next t ∧ stored s t rf s.wr)

/-- R46-R48, R50-R52, R54-R59, R63-R71: a POKE to a plain control register is read back by PEEK with its fixed-0 bits 0, and
changes no other of them, no data nibble but port registers, and no other state. PEEK reads SP in RF 01H, SIOTS, SIOHIZ and
SIOCK in 02H, the enable or interval bit and the clock selection in 11H, 12H and 13H (bit 2 as 0), IEGMD in 1FH. -/
def Obligations.ControlRegistersReadBack : Prop :=
  ∀ s : State,
    (rfRead s 0x01).toNat = s.sp.toNat ∧
    (rfRead s 0x02).toNat = 8 * s.sio.ts.toNat + 4 * s.sio.hiz.toNat + s.sio.ck.toNat ∧
    (rfRead s 0x11).toNat = 8 * s.tm0.en.toNat + s.tm0.ck.toNat ∧
    (rfRead s 0x12).toNat = 8 * s.tm1.en.toNat + s.tm1.ck.toNat ∧
    (rfRead s 0x13).toNat = 8 * s.btm.isel.toNat + s.btm.ck.toNat ∧
    (rfRead s 0x1F).toNat = s.iegmd.toNat ∧
    ∀ e ∈ ([(0x0B, 0x9), (0x0C, 0x7), (0x0D, 0xF), (0x1B, 0xF), (0x1C, 0xF), (0x2B, 0xF), (0x2C, 0x7), (0x2E, 0x1),
        (0x2F, 0xF), (0x3B, 0x1), (0x3C, 0x1), (0x3D, 0x1), (0x3E, 0x1), (0x3F, 0x1)] : List (DAddr × Nibble)),
      ∃ t, exec (.poke e.1) s = .next t ∧ rfRead t e.1 = s.wr &&& e.2 ∧
        (∀ a : DAddr, a.toNat < 0x40 → a ≠ e.1 → rfRead t a = rfRead s a) ∧
        (∀ a : DAddr, notPort a → memRead t a = memRead s a) ∧ (∀ a : DAddr, latchAt t a = latchAt s a) ∧
        { t with ports := s.ports, ip := s.ip, irq := s.irq } = s

/-- R46, R72, R112, R120: of the 64 control-register addresses the 39 that are none of the 25 of R46 ignore a POKE, and a PEEK
of one changes nothing but WR, to a value left open (decision D7); a POKE of the read-only INT is ignored too, which reads
the pin; the triggers read 0. -/
def Obligations.ControlRegistersFixed : Prop :=
  ∀ s : State,
    (∀ a : DAddr, a.toNat < 0x40 →
      a ∉ ([0x01, 0x02, 0x03, 0x0B, 0x0C, 0x0D, 0x0F, 0x11, 0x12, 0x13, 0x1B, 0x1C, 0x1F, 0x20, 0x21, 0x22, 0x2B, 0x2C,
        0x2E, 0x2F, 0x3B, 0x3C, 0x3D, 0x3E, 0x3F] : List DAddr) →
      exec (.poke a) s = .next s ∧ ∃ v, exec (.peek a) s = .next { s with wr := v }) ∧
    exec (.poke 0x0F) s = .next s ∧ (rfRead s 0x0F = if pinInt s then 1 else 0) ∧
    rfRead s 0x03 = 0 ∧ rfRead s 0x20 = 0 ∧
    (rfRead s 0x11).getLsbD 2 = false ∧ (rfRead s 0x12).getLsbD 2 = false ∧ (rfRead s 0x13).getLsbD 2 = false

/-- R26, R47, R472, D2: a POKE to SP writes the stack pointer alone; 6 and 7 reset the chip. -/
def Obligations.StackPointerPoke : Prop :=
  ∀ s : State,
    ((s.wr.extractLsb' 0 3).toNat ≤ 5 → exec (.poke 0x01) s = .next { s with sp := s.wr.extractLsb' 0 3 }) ∧
    (6 ≤ (s.wr.extractLsb' 0 3).toNat → exec (.poke 0x01) s = .next (applyReset .stack s))

/-- R116, R256: GET loads DBF from each assigned peripheral register, an 8-bit one leaving DBF3 and DBF2, and changes nothing
else. The unstated values (TM0M, TM1M, SIOSFR during a transfer) are not claimed. -/
def Obligations.GetLoadsDataBuffer : Prop :=
  ∀ s : State,
    let low := fun (p : DAddr) (v : Byte) => ∃ t, exec (.get p) s = .next t ∧ onlyDbf s t ∧
      dbfRead t = (dbfRead s).extractLsb' 8 8 ++ v
    let whole := fun (p : DAddr) (v : Word) => ∃ t, exec (.get p) s = .next t ∧ onlyDbf s t ∧ dbfRead t = v
    (s.sio.ts = false → low 0x01 s.sio.sfr) ∧ (∃ v, low 0x01 v) ∧ (∃ v, low 0x02 v) ∧ (∃ v, low 0x03 v) ∧
    low 0x04 s.adc.adcr ∧ whole 0x40 ((0 : Nibble) ++ s.ar) ∧ whole 0x45 (s.tm1.count ++ s.tm0.count)

/-- R117, R257, R391, R414: PUT writes each assigned peripheral register from DBF and changes nothing else: SIOSFR outside a
transfer, TM0M and TM1M other than 00H, ADCR only while ADCSOFT is 1, AR without the bits the part lacks, TM0TM1C never. -/
def Obligations.PutWritesPeripheral : Prop :=
  ∀ s : State,
    let low : Byte := (dbfRead s).extractLsb' 0 8
    (s.sio.ts = false → s.sio.tainted = false →
      exec (.put 0x01) s = .next { s with sio := { s.sio with sfr := low } }) ∧
    (low ≠ 0 → exec (.put 0x02) s = .next { s with tm0 := { s.tm0 with modulo := low } }) ∧
    (low ≠ 0 → exec (.put 0x03) s = .next { s with tm1 := { s.tm1 with modulo := low } }) ∧
    (s.adc.soft = false → exec (.put 0x04) s = .next s) ∧
    (s.adc.soft = true → ∃ t, exec (.put 0x04) s = .next t ∧ t.adc.adcr = low ∧ t.adc.cmp = false ∧
      t.adc.seq ≠ .idle ∧ t.adc.ch = s.adc.ch ∧ t.adc.soft = true ∧ { t with adc := s.adc } = s) ∧
    exec (.put 0x40) s = .next { s with ar := (dbfRead s).extractLsb' 0 12 &&& s.cfg.part.addrMask } ∧
    exec (.put 0x45) s = .next s

/-! ### Branches and subroutines -/

/-- R281, R282, R147: the branches set PC to the 12-bit destination cut to PCW bits and change nothing else. -/
def Obligations.BranchesSetPc : Prop :=
  ∀ (s : State) (addr : BitVec 11),
    let jump := fun (i : Instr) (n : Nat) =>
      ∃ t, exec i s = .next t ∧ { t with pc := s.pc } = s ∧ t.pc.toNat = n % 2 ^ s.cfg.part.pcw
    jump (.brPage0 addr) addr.toNat ∧ jump (.brPage1 addr) (2048 + addr.toNat) ∧ jump .brAr s.ar.toNat

/-- R283, R284, R245: the calls push the return address and jump; nothing else changes; with five levels in use they reset
the chip. -/
def Obligations.CallsPushAndJump : Prop :=
  ∀ (s : State) (addr : BitVec 11),
    let called := fun (i : Instr) (n : Nat) =>
      ∃ t, exec i s = .next t ∧ t.pc.toNat = n % 2 ^ s.cfg.part.pcw ∧ t.sp.toNat + 1 = s.sp.toNat ∧
        asrGet t t.sp = s.pc ∧ (∀ k : BitVec 3, k.toNat ≤ 4 → k ≠ t.sp → asrGet t k = asrGet s k) ∧
        { t with pc := s.pc, sp := s.sp, asr := s.asr } = s
    (1 ≤ s.sp.toNat → s.sp.toNat ≤ 5 → inRange s.cfg s.pc →
      called (.call addr) addr.toNat ∧ called .callAr s.ar.toNat) ∧
    (s.sp = 0 → exec (.call addr) s = .next (applyReset .stack s) ∧ exec .callAr s = .next (applyReset .stack s))

/-- R285-R287, R472: the returns pop PC; RETSK also skips, RETI also restores the newest saved PSWORD and leaves INTE; nothing
else changes; with nothing on the address stack they reset the chip. The interrupt stack is that of decision D3 (log 8). -/
def Obligations.ReturnsPop : Prop :=
  ∀ (s : State) (p : Psword) (rest : List Psword),
    (s.sp.toNat ≤ 4 → inRange s.cfg (asrGet s s.sp) →
      exec .ret s = .next { s with pc := asrGet s s.sp, sp := s.sp + 1 } ∧
      exec .retsk s = .next { s with pc := asrGet s s.sp, sp := s.sp + 1, skip := true } ∧
      (s.intsk = p :: rest →
        exec .reti s = .next { s with pc := asrGet s s.sp, sp := s.sp + 1, psw := p, intsk := rest }) ∧
      (s.intsk = [] → ∃ t, exec .reti s = .next t ∧ t.pc = asrGet s s.sp ∧ t.sp = s.sp + 1 ∧
        { t with pc := s.pc, sp := s.sp, psw := s.psw } = s)) ∧
    (s.sp = 5 → exec .ret s = .next (applyReset .stack s) ∧ exec .retsk s = .next (applyReset .stack s) ∧
      exec .reti s = .next (applyReset .stack s))

/-! ### Interrupts -/

/-- R300, R301, R444: EI itself changes only EI_PENDING; the end of the following instruction sets INTE and then tests for an
acceptance, a skip, a standby mode or a sample that overrides the program (log 21) deferring the test; no interrupt is
accepted at the boundary after an EI, whatever is pending: where the following instruction is an EI again, INTE is set there
and the acceptance still waits (log 35). DI clears INTE and, by decision D18 (log 31), the pending effect of an EI, and
changes nothing else. -/
def Obligations.EnableIsLate : Prop :=
  ∀ (s : State) (f : IrqSet),
    exec .ei s = .next { s with eiPending := true } ∧
    exec .di s = .next { s with inte := false, eiPending := false } ∧
    (s.rstSig = false → endOfStep true false f s = { s with irqDly := f }) ∧
    (s.rstSig = false → endOfStep true true f s = { s with irqDly := f, inte := true }) ∧
    (s.rstSig = false → s.skip = true ∨ isRunning s.mode = false ∨ overridden s = true →
      endOfStep false s.eiPending f s =
        { s with irqDly := f, inte := s.inte || s.eiPending, eiPending := false }) ∧
    (s.rstSig = false → s.skip = false → s.mode = .run → overridden s = false →
      endOfStep false s.eiPending f s =
        acceptCheck { s with irqDly := f, inte := s.inte || s.eiPending, eiPending := false })

/-- R444, R446, R441, at the granularity of decision D15 (log 17): with INTE = 1 the pending enabled source of the highest
priority is accepted, in the order INT, TM0, TM1, BTM, SIO, and with INTE = 0 or none pending, none. -/
def Obligations.PriorityOfRequests : Prop :=
  ∀ s : State,
    (s.inte = false → acceptCheck s = s) ∧
    ((∀ x, s.irq.get x = true → s.ip.get x = false) → acceptCheck s = s) ∧
    (s.inte = true → ∀ k, k < 5 →
      let order : List IrqSource := [.int, .tm0, .tm1, .btm, .sio]
      let x := order.getD k .sio
      s.irq.get x = true → s.ip.get x = true →
      (∀ j, j < k → (s.irq.get (order.getD j .sio) && s.ip.get (order.getD j .sio)) = false) →
      acceptCheck s = acceptCycle x s)

/-- R441, R445, R447: taking an interrupt pushes PC, saves PSWORD (the oldest of four is lost), clears PSWORD, INTE and the
request, goes to the vector, 5 for INT down to 1 for SIO, and changes nothing else; its cycle then lets the hardware advance
once and leaves the old request flags in IRQ_DLY. Stated of the cycle with the watchdog off. The depth of
the interrupt stack is decision D3 (log 8), the order within the cycle D11 (log 18). With the address stack full (SP = 0) the
push resets the chip (R472) and nothing of the acceptance is left; whether its request flag is cleared is open (log 34). -/
def Obligations.TakingAnInterrupt : Prop :=
  ∀ (x : IrqSource) (s : State),
    (1 ≤ s.sp.toNat → s.sp.toNat ≤ 5 → inRange s.cfg s.pc →
      let t := takeInterrupt x s
      t.pc.toNat = (match x with | .int => 5 | .tm0 => 4 | .tm1 => 3 | .btm => 2 | .sio => 1) ∧
        t.sp.toNat + 1 = s.sp.toNat ∧ asrGet t t.sp = s.pc ∧
        (∀ k : BitVec 3, k.toNat ≤ 4 → k ≠ t.sp → asrGet t k = asrGet s k) ∧
        t.intsk = (s.psw :: s.intsk).take 3 ∧ t.psw = ⟨false, false, false, false, false⟩ ∧ t.inte = false ∧
        t.irq.get x = false ∧ (∀ y, y ≠ x → t.irq.get y = s.irq.get y) ∧
        { t with
          pc := s.pc, sp := s.sp, asr := s.asr, intsk := s.intsk, psw := s.psw, inte := s.inte, irq := s.irq } = s ∧
        (s.rstSig = false → s.btm.wdtEn = false → acceptCycle x s = { clockedCycle t with irqDly := s.irq })) ∧
    (s.sp = 0 → ∃ b, takeInterrupt x s = applyReset .stack { s with irq := s.irq.put x b } ∧
      (acceptCycle x s).pc = 0 ∧ (acceptCycle x s).sp = 5 ∧ (acceptCycle x s).mode = .run ∧
      (acceptCycle x s).inte = false ∧ (acceptCycle x s).intsk = [] ∧ (acceptCycle x s).rstSig = true ∧
      ∀ y, y ≠ x → (acceptCycle x s).irq.get y = s.irq.get y)

/-- R445, R448, R287: RETI after an interrupt resumes the program where it was, with its PSWORD; INTE stays 0. -/
def Obligations.InterruptThenReturn : Prop :=
  ∀ (x : IrqSource) (s : State), 1 ≤ s.sp.toNat → s.sp.toNat ≤ 5 → inRange s.cfg s.pc → s.intsk.length ≤ 2 →
    exec .reti (takeInterrupt x s) = .next
      { s with asr := s.asr.put (s.sp - 1) s.pc, inte := false, irq := s.irq.put x false }

/-! ### Standby -/

/-- R303, R461: HALT enters the mode and changes nothing else, or is ignored where its condition holds already by the delayed
flags IRQ_DLY, as decision D19 has it (R305, log 31); a set bit 2 is refused (D14). -/
def Obligations.HaltEntersOrIsIgnored : Prop :=
  ∀ (s : State) (h : Nibble),
    (h.getLsbD 2 = false →
      exec (.halt h) s = .next (if haltRelease s h s.irqDly then s else { s with mode := .halt h })) ∧
    (h.getLsbD 2 = true → exec (.halt h) s = .refused .standbyOperand) ∧
    (haltRelease s h s.irqDly = true ↔
      (h.getLsbD 3 = true ∧ ∃ x, s.irqDly.get x = true ∧ s.ip.get x = true) ∨
      (h.getLsbD 1 = true ∧ s.irqDly.tm1 = true) ∨ (h.getLsbD 0 = true ∧ pinP0F0 s = false))

/-- R302, R463, R464: STOP with 1000B or 1001B enters the mode, clearing IRQTM1, the timer-1 count and ADCR and abandoning a
conversion, or is ignored where its condition holds already by the delayed flags IRQ_DLY, as decision D19 has it (R305,
log 31); timer 1 never releases it. That the converter's control bits stay is log 24. Entering while timer 1 counts timer 0 is
refused (D26, log 22). -/
def Obligations.StopEntersOrIsIgnored : Prop :=
  ∀ (s : State) (c : Nibble), c = 8 ∨ c = 9 →
    (stopRelease s c s.irqDly = true → exec (.stop c) s = .next s) ∧
    (stopRelease s c s.irqDly = false → s.tm1.ck ≠ 3 → ∃ t, exec (.stop c) s = .next t ∧ t.mode = .stop c ∧
      t.irq = { s.irq with tm1 := false } ∧ t.tm1 = { s.tm1 with count := 0 } ∧
      t.adc = { s.adc with adcr := 0, seq := .idle } ∧
      { t with mode := s.mode, irq := s.irq, tm1 := s.tm1, adc := s.adc } = s) ∧
    (stopRelease s c s.irqDly = false → s.tm1.ck = 3 → exec (.stop c) s = .refused .stopClockedByTimer0) ∧
    (stopRelease s c s.irqDly = true ↔
      (∃ x, x ≠ .tm1 ∧ s.irqDly.get x = true ∧ s.ip.get x = true) ∨ (c = 9 ∧ pinP0F0 s = false))

/-- R465, by decision D21 (log 23): STOP 0000B gives every item to which column RST_A of R87 gives a definite value that value:
PC, SP, INTE, EI_PENDING, SKIP, the interrupt stack, the system registers but WR, every control register, so that every pin is
an input, the output latches, the counts, the modulo registers, the serial output latch and ADCR; the watchdog is off. It
keeps RAM, WR, the BTM counter and, unless a disturbed transfer left it unspecified (log 16), SIOSFR; and it stops. -/
def Obligations.StopZeroInitialises : Prop :=
  ∀ s : State, ∃ t, exec (.stop 0) s = .next t ∧ t.mode = .stop 0 ∧ t.ram = s.ram ∧ t.wr = s.wr ∧
    (s.sio.tainted = false → t.sio.sfr = s.sio.sfr) ∧ t.btm.cnt = s.btm.cnt ∧
    t.pc = 0 ∧ t.sp = 5 ∧ t.inte = false ∧ t.eiPending = false ∧ t.skip = false ∧ t.intsk = [] ∧
    t.ar = 0 ∧ t.ix = 0 ∧ t.mpe = false ∧ t.rpRow = 0 ∧ t.psw = ⟨false, false, false, false, false⟩ ∧
    t.ip = ⟨false, false, false, false, false⟩ ∧ t.irq.int = false ∧ t.irq.tm0 = false ∧ t.irq.tm1 = true ∧
    t.irq.btm = true ∧ t.irq.sio = false ∧ t.irqDly = t.irq ∧ t.iegmd = 0 ∧
    t.ports.gio = 0 ∧ t.ports.cbio = 0 ∧ t.ports.dbio = 0 ∧ t.ports.gpu = 0 ∧ t.ports.dbpu = 0 ∧ t.ports.cidi = 0 ∧
    t.ports.latA = 0 ∧ t.ports.latB = 0 ∧ t.ports.latC = 0 ∧ t.ports.latD = 0 ∧ t.ports.latE = 0 ∧
    t.ports.sioen = false ∧ t.ports.tm1osel = false ∧
    t.tm0 = ⟨false, 0, 0, 0xFF⟩ ∧ t.tm1 = ⟨true, 0, 0, 0xFF⟩ ∧
    t.btm.isel = false ∧ t.btm.ck = 0 ∧ t.btm.wdtEn = false ∧
    t.adc.soft = false ∧ t.adc.cmp = false ∧ t.adc.fin = false ∧ t.adc.ch = 0 ∧ t.adc.adcr = 0 ∧ t.adc.seq = .idle ∧
    t.sio.ts = false ∧ t.sio.hiz = false ∧ t.sio.ck = 0 ∧ t.sio.soLatch = false

/-- R304: NOP changes nothing. -/
def Obligations.NopChangesNothing : Prop := ∀ s : State, exec .nop s = .next s

/-- R360, R462, R464, R466: a step in HALT or STOP is one cycle of it, as the time of an instruction is (`StepRunsDecoded`). A
clocked cycle takes the next sample of the outside, the last staying when none is left (log 2), advances the prescaler by 1,
gives INT's edges to IRQ and moves the converter on one cycle, a conversion in progress towards its end after 25 or 3; stated
of a cycle in which the watchdog does not reset the chip, which WatchdogResets has; for the rest of it see TimerPeriod,
IntervalTimer and SerialTransfer. While no release condition holds,
by the flags themselves, the mode stays and nothing changes but what the hardware changes by itself (`quietView`), IRQ_DLY
taking the flags as they were before the cycle (log 19). When one holds, HALT goes on after the instruction with an acceptance
test, which with INTE = 0 changes nothing, and STOP begins its wait. In HALT an overflow of the watchdog resets the chip
(R473). In STOP timer 1, the interval timer, the converter and the prescaler stand still; INT's edges set IRQ and count at
timer 0 where TM0CK is 11; a transfer goes on by an external clock alone. A reset signal in the cycle defers the release
(log 21). -/
def Obligations.StandbyCyclesWait : Prop :=
  ∀ (h : Nibble) (s : State),
    ((∀ p rest, s.inputs = p :: rest → (nextSample s).pins = p ∧ (nextSample s).inputs = rest) ∧
     (s.inputs = [] → (nextSample s).pins = s.pins ∧ (nextSample s).inputs = [])) ∧
    (wdtResetsNext s = false →
      let t := clockedCycle s
      t.pins = (nextSample s).pins ∧ t.inputs = (nextSample s).inputs ∧ t.prescaler = s.prescaler + 1 ∧
        intSampled s t ∧ t.adc = (adcCycle (nextSample s)).adc ∧
        (s.adc.seq = .idle → t.adc = s.adc) ∧
        (∀ n b, s.adc.seq = .continuous n b → t.adc.seq = if n = 24 then .idle else .continuous (n + 1) b) ∧
        (∀ n b, s.adc.seq = .single n b → t.adc.seq = if n = 2 then .idle else .single (n + 1) b)) ∧
    (overridden s = false → s.mode = .halt h → s.rstSig = false →
      let u := { clockedCycle s with irqDly := s.irq }
      step s = .next (clearRstSig (haltCycle h s)) ∧
      u.rstSig = wdtResetsNext s ∧
      (u.rstSig = true → haltCycle h s = clockedCycle s ∧ (haltCycle h s).pc = 0 ∧ (haltCycle h s).mode = .run) ∧
      (u.rstSig = false → quietView u = quietView { s with irqDly := s.irq } ∧
        (haltRelease u h u.irq = false ∨ overridden u = true → haltCycle h s = u ∧ (haltCycle h s).mode = .halt h) ∧
        (haltRelease u h u.irq = true → overridden u = false →
          haltCycle h s = acceptCheck { u with mode := .run } ∧
          (s.inte = false → haltCycle h s = { u with mode := .run })))) ∧
    (overridden s = false → s.mode = .stop h →
      let u := { stoppedCycle s with irqDly := s.irq }
      let pulse := decide (s.tm0.ck = 3) && tm0EdgeNext s
      step s = .next (clearRstSig (stopCycle h s)) ∧
      quietView u = quietView { s with irqDly := s.irq } ∧ u.tm1 = s.tm1 ∧ u.btm = s.btm ∧ u.adc = s.adc ∧
      u.prescaler = s.prescaler ∧ u.pins = (nextSample s).pins ∧ u.inputs = (nextSample s).inputs ∧ intSampled s u ∧
      u.tm0 = timerAfter s.tm0 pulse ∧ u.irq.tm0 = (s.irq.tm0 || timerMatches s.tm0 pulse) ∧
      (s.sio.ts = true → s.sio.ck = 0 →
        serialAfter s u (s.sio.sckPrev && !sckNext s) (!s.sio.sckPrev && sckNext s) ∧ u.sio.sckPrev = sckNext s) ∧
      (s.sio.ts = false ∨ s.sio.ck ≠ 0 → { u.sio with sckPrev := s.sio.sckPrev } = s.sio ∧ u.irq.sio = s.irq.sio) ∧
      (stopRelease u h u.irq = false ∨ overridden u = true → stopCycle h s = u) ∧
      (stopRelease u h u.irq = true → overridden u = false →
        stopCycle h s = { u with mode := .wait .stopRelease s.cfg.oscGrow }))

/-- R464, R501, R370: a wait counts its pulses from 0 and ends with the pulse after its modulo value, the 256th after a
reset: the count is cleared, IRQTM1 set (after a reset in standby, left or set: D28, log 10), TM1OUT_FF inverted if TM1EN is 1
(log 37), and the CPU runs. Before that nothing but the count changes. A step in the wait is one cycle: of the oscillator's
growth, OSC_GROW, in which nothing advances (log 32); then one in which the hardware advances as in HALT mode (D26), timer 1
counting fx/128, after STOP its own selected pulse, whatever TM1EN is, and nothing else changes: its count goes up by 1 with
the pulse, and the pulse that finds it at the last value, and nothing else, ends the wait, with an acceptance test. That
is stated of cycles in which the watchdog does not overflow; one in which it does resets the chip (R473). IRQ_DLY by log 19,
a reset signal in the last cycle by log 21. -/
def Obligations.WaitsEnd : Prop :=
  ∀ (w : WaitFor) (s : State) (n : Nat),
    (s.tm1.count = 0 →
      let last := if w = .stopRelease then s.tm1.modulo.toNat else 255
      (n ≤ last → (waitCount w)^[n] s = { s with tm1 := { s.tm1 with count := BitVec.ofNat 8 n } }) ∧
      (let t := (waitCount w)^[last + 1] s
       t.mode = .run ∧ t.tm1 = s.tm1 ∧ t.pc = s.pc ∧ t.ram = s.ram ∧
         t.tm1Out = (if s.tm1.en then !s.tm1Out else s.tm1Out) ∧
         (w ≠ .resetB → t.irq = { s.irq with tm1 := true }) ∧
         (w = .resetB → t.irq = { s.irq with tm1 := t.irq.tm1 } ∧ (s.irq.tm1 = true → t.irq.tm1 = true)))) ∧
    (overridden s = false → s.mode = .wait w (n + 1) →
      step s = .next { nextSample s with mode := .wait w n, rstSig := false }) ∧
    (overridden s = false → s.mode = .wait w 0 →
      let pulse := fun p : Nat => match (if w = .stopRelease then s.tm1.ck.toNat else 0) with
        | 0 => decide (p % 8 = 0)
        | 1 => decide (p % 512 = 0)
        | 2 => true
        | _ => false
      let comes := pulse (s.prescaler.toNat + 1)
      let last := if w = .stopRelease then s.tm1.modulo else 0xFF
      let ends := comes && decide (s.tm1.count = last)
      let u := { clockedCycle s with irqDly := s.irq }
      tm1Cycle s = (if pulse s.prescaler.toNat then waitCount w s else s) ∧
      step s = .next (clearRstSig (waitCycle w 0 s)) ∧
      (s.rstSig = false → wdtResetsNext s = true → waitCycle w 0 s = clockedCycle s ∧ (clockedCycle s).pc = 0) ∧
      (s.rstSig = false → wdtResetsNext s = false →
        quietView { u with mode := s.mode } = quietView { s with irqDly := s.irq } ∧
        u.mode = (if ends then .run else .wait w 0) ∧
        u.tm1 = { s.tm1 with count := if ends then 0 else if comes then s.tm1.count + 1 else s.tm1.count } ∧
        u.tm1Out = (if ends && s.tm1.en then !s.tm1Out else s.tm1Out) ∧
        (ends = false → u.irq.tm1 = s.irq.tm1) ∧ (ends = true → w ≠ .resetB ∨ s.irq.tm1 = true → u.irq.tm1 = true) ∧
        (u.mode = .wait w 0 → waitCycle w 0 s = u) ∧
        (u.mode = .run → overridden u = false → waitCycle w 0 s = acceptCheck u) ∧
        (overridden u = true → waitCycle w 0 s = { u with mode := .wait w 0 })))

/-! ### Reset -/

/-- R87, R503: the state after reset. That the mode is the wait with no growth of the oscillator left is the model's choice
(log 6). -/
def Obligations.StateAfterReset : Prop :=
  let s := State.reset
  s.pc = 0 ∧ s.sp = 5 ∧ s.inte = false ∧ s.eiPending = false ∧ s.skip = false ∧ s.ar = 0 ∧ s.ix = 0 ∧
    s.mpe = false ∧ s.rpRow = 0 ∧ s.psw = ⟨false, false, false, false, false⟩ ∧ s.intsk = [] ∧
    s.ports = ⟨0, 0, 0, 0, 0, 0, 0, 0, 0, 0, 0, false, false⟩ ∧ s.tm0 = ⟨false, 0, 0, 0xFF⟩ ∧
    s.tm1 = ⟨true, 0, 0, 0xFF⟩ ∧ s.irq.tm1 = true ∧ s.irq.btm = true ∧ s.irq.int = false ∧ s.irq.tm0 = false ∧
    s.irq.sio = false ∧ s.irqDly = s.irq ∧ s.ip = ⟨false, false, false, false, false⟩ ∧ s.iegmd = 0 ∧
    s.adc = ⟨false, false, false, 0, 0, .idle⟩ ∧ s.sio.ts = false ∧ s.sio.hiz = false ∧ s.sio.ck = 0 ∧
    s.sio.soLatch = false ∧ s.btm.isel = false ∧ s.btm.ck = 0 ∧ s.btm.wdtEn = false ∧ s.mode = .wait .resetA 0

/-- R87, R443, R470, R473, R500: what every reset of a running machine fixes, and what each column fixes or retains: RST_A all
control registers, counts and latches; RST_B the latches and the timer-1 count, retaining WR, SIOSFR and RAM but for DBF; RST_B
and RST_C retaining every control register but the flags that make a pin an output, by decisions D4 and D28 (log 31), and the
request flags, those for RST_B before its wait. WDTEN and the watchdog's flip-flops are cleared by every reset (D4, log 9), but
WDT_DIV after a watchdog overflow. RST_A and RST_B go to WAIT, RST_C runs at once. -/
def Obligations.ResetTable : Prop :=
  ∀ (c : ResetCause) (s : State),
    let t := applyReset c s
    t.pc = 0 ∧ t.sp = 5 ∧ t.inte = false ∧ t.eiPending = false ∧ t.skip = false ∧ t.intsk = [] ∧ t.ar = 0 ∧
      t.ix = 0 ∧ t.mpe = false ∧ t.rpRow = 0 ∧ t.psw = Psword.zero ∧ t.ports.gio = 0 ∧ t.ports.cbio = 0 ∧
      t.ports.dbio = 0 ∧ t.ports.tm1osel = false ∧ t.ports.sioen = false ∧ t.tm0.count = 0 ∧
      t.tm0.modulo = 0xFF ∧ t.tm1.modulo = 0xFF ∧ t.adc.adcr = 0 ∧ t.adc.seq = .idle ∧ t.rom = s.rom ∧
      t.btm.wdtEn = false ∧ t.btm.wdtCarry = false ∧ t.btm.wdtDiv = decide (c = .wdt) ∧ t.irqDly = t.irq ∧
      (c = .rstA → t.mode = .wait .resetA 0 ∧ t.ip = IrqSet.none ∧ t.irq = ⟨false, false, true, true, false⟩ ∧
        t.iegmd = 0 ∧ t.ports = ⟨0, 0, 0, 0, 0, 0, 0, 0, 0, 0, 0, false, false⟩ ∧ t.tm0 = ⟨false, 0, 0, 0xFF⟩ ∧
        t.tm1 = ⟨true, 0, 0, 0xFF⟩ ∧ t.btm.isel = false ∧ t.btm.ck = 0 ∧ t.adc = ⟨false, false, false, 0, 0, .idle⟩ ∧
        t.sio.ts = false ∧ t.sio.hiz = false ∧ t.sio.ck = 0 ∧ t.sio.soLatch = false) ∧
      (c = .rstB → t.mode = .wait .resetB 0 ∧ t.wr = s.wr ∧ t.sio.sfr = s.sio.sfr ∧ t.tm1.count = 0 ∧
        t.ports.latA = 0 ∧ t.ports.latB = 0 ∧ t.ports.latC = 0 ∧ t.ports.latD = 0 ∧ t.ports.latE = 0 ∧
        t.sio.soLatch = false ∧
        ∀ a : DAddr, a.toNat < 0x0C ∨ (0x10 ≤ a.toNat ∧ a.toNat ≤ 0x6D) → memRead t a = memRead s a) ∧
      (c ≠ .rstA → t.ip = s.ip ∧ t.irq = s.irq ∧ t.iegmd = s.iegmd ∧ t.ports.gpu = s.ports.gpu ∧
        t.ports.dbpu = s.ports.dbpu ∧ t.ports.cidi = s.ports.cidi ∧ t.tm0.en = s.tm0.en ∧ t.tm0.ck = s.tm0.ck ∧
        t.tm1.en = s.tm1.en ∧ t.tm1.ck = s.tm1.ck ∧ t.btm.isel = s.btm.isel ∧ t.btm.ck = s.btm.ck ∧
        t.adc = { s.adc with adcr := 0, seq := .idle } ∧ t.sio.ts = s.sio.ts ∧ t.sio.hiz = s.sio.hiz ∧
        t.sio.ck = s.sio.ck) ∧
      (c = .wdt → t.btm.cnt = 0x40) ∧ (c = .wdt ∨ c = .stack → t.mode = .run)

/-- R474, R501, R502: while the reset signal is asserted, by RESET or, with the option and on a part that has it, by the power-on
clear, the step holds the machine, in every mode, and remembers the column of R87 (R470) and, for the growth of the
oscillator, whether STOP had stopped it: RST_A in RUN and in a wait after a reset, RST_B in HALT, STOP and a wait after STOP, as
found where a reset was held already. When it is released the step applies the reset and starts its wait. Which oscillator
grows again is log 21. -/
def Obligations.ResetSignalOverrides : Prop :=
  ∀ s : State, s.pins.overVdd = false → s.pins.vppProgram = false →
    (s.pins.reset = .low ∨ (s.pins.vddLow = true ∧ s.cfg.optPoc = true ∧ s.cfg.part ≠ .upd17P149) →
      ∃ t b o, step s = .next t ∧ t.mode = .held b o ∧ t.pc = s.pc ∧ t.ram = s.ram ∧
        { t with mode := s.mode, pins := s.pins, inputs := s.inputs, freeIdx := s.freeIdx, rstSig := s.rstSig } = s ∧
        (s.mode = .run → b = false ∧ o = false) ∧ (∀ h, s.mode = .halt h → b = true ∧ o = false) ∧
        (∀ c, s.mode = .stop c → b = true ∧ o = true) ∧
        (∀ g, s.mode = .wait .resetA g ∨ s.mode = .wait .resetB g → b = false ∧ (o = true ↔ g ≠ 0)) ∧
        (∀ g, s.mode = .wait .stopRelease g → b = true ∧ (o = true ↔ g ≠ 0)) ∧
        (∀ b' o', s.mode = .held b' o' → b = b' ∧ o = o')) ∧
    (∀ b o, s.mode = .held b o → resetAsserted s = false →
      step s = .next { nextSample (applyReset (if b then .rstB else .rstA) s) with
        mode := .wait (if b then .resetB else .resetA) (if o then s.cfg.oscGrow else 0), rstSig := false })

/-! ### Peripherals -/

/-- R363, R369: from a count of 0 an enabled timer counts one a pulse up to its modulo value N, and the N + 1st pulse is the
match, which clears the count and sets the request, for timer 1 also inverting TM1OUT_FF; a disabled timer ignores pulses.
R363, R368: while TM1CK is 11 the match of timer 0, and nothing else of it, is one count pulse of timer 1, so that with modulo
values N0 and N1 timer 1 matches with the (N0 + 1)(N1 + 1)st pulse of timer 0; with another TM1CK timer 0 leaves timer 1
alone. R362, R360: the pulse that a clocked cycle gives each timer, by TMnCK: timer 0 fx/16, fx/512, fx/64 or the edge of INT,
timer 1 fx/128, fx/8192, fx/16 or timer 0's match, a division of fx by 16 n coming with every n-th count of the prescaler
(D23); timer 1 in RUN and HALT (WaitsEnd has the waits). The last clauses of a cycle in which the
watchdog does not reset the chip. -/
def Obligations.TimerPeriod : Prop :=
  ∀ (s : State) (n : Nat),
    (s.tm0.en = true → s.tm0.count = 0 → n ≤ s.tm0.modulo.toNat →
      (tm0Pulse^[n] s).tm0.count.toNat = n ∧ (tm0Pulse^[n] s).irq = s.irq ∧ (tm0Pulse^[n] s).tm1 = s.tm1 ∧
      (n = s.tm0.modulo.toNat → (tm0Pulse^[n + 1] s).tm0.count = 0 ∧ (tm0Pulse^[n + 1] s).irq.tm0 = true ∧
        (s.tm1.ck ≠ 3 → (tm0Pulse^[n + 1] s).tm1 = s.tm1 ∧ (tm0Pulse^[n + 1] s).irq = { s.irq with tm0 := true }))) ∧
    (s.mode = .run → s.tm1.en = true → s.tm1.count = 0 → n ≤ s.tm1.modulo.toNat →
      (tm1Pulse^[n] s).tm1.count.toNat = n ∧ (tm1Pulse^[n] s).irq = s.irq ∧ (tm1Pulse^[n] s).tm1Out = s.tm1Out ∧
      (n = s.tm1.modulo.toNat → (tm1Pulse^[n + 1] s).tm1.count = 0 ∧ (tm1Pulse^[n + 1] s).irq.tm1 = true ∧
        (tm1Pulse^[n + 1] s).tm1Out = !s.tm1Out)) ∧
    (s.tm0.en = false → tm0Pulse s = s) ∧ (s.tm1.en = false → tm1Pulse s = s) ∧
    (s.mode = .run → s.tm0.en = true → s.tm1.en = true → s.tm1.ck = 3 → s.tm0.count = 0 → s.tm1.count = 0 →
      let all := fun k : Nat => tm0Pulse^[(s.tm0.modulo.toNat + 1) * k] s
      (n ≤ s.tm1.modulo.toNat → (all n).tm1.count.toNat = n ∧ (all n).tm0.count = 0 ∧ (all n).irq.tm1 = s.irq.tm1 ∧
        (all n).tm1Out = s.tm1Out) ∧
      (n = s.tm1.modulo.toNat + 1 → (all n).tm1.count = 0 ∧ (all n).tm0.count = 0 ∧ (all n).irq.tm1 = true ∧
        (all n).tm1Out = !s.tm1Out)) ∧
    (wdtResetsNext s = false →
      let t := clockedCycle s
      let p := s.prescaler.toNat + 1
      let pulse0 := match s.tm0.ck.toNat with
        | 0 => true
        | 1 => decide (p % 32 = 0)
        | 2 => decide (p % 4 = 0)
        | _ => tm0EdgeNext s
      let pulse1 := match s.tm1.ck.toNat with
        | 0 => decide (p % 8 = 0)
        | 1 => decide (p % 512 = 0)
        | 2 => true
        | _ => timerMatches s.tm0 pulse0
      t.tm0 = timerAfter s.tm0 pulse0 ∧ t.irq.tm0 = (s.irq.tm0 || timerMatches s.tm0 pulse0) ∧
        (s.mode = .run ∨ (∃ h, s.mode = .halt h) →
          t.tm1 = timerAfter s.tm1 pulse1 ∧ t.irq.tm1 = (s.irq.tm1 || timerMatches s.tm1 pulse1) ∧
            t.tm1Out = (s.tm1Out ^^ timerMatches s.tm1 pulse1)))

/-- R381: the interval timer counts on modulo 128 and, counted from 0, sets IRQBTM with every 128th pulse (BTMISEL = 0) or every
32nd (BTMISEL = 1), and with no other: not before the first, and, where the flag is cleared after n pulses, again with the
next multiple; that part with the watchdog off. R360, R381: in a clocked cycle it counts once where the pulse comes that
BTMCK_MAP (the parameter of decision D10) gives BTMCK (`btmPulseNext`), and without it nothing of it changes, the watchdog on
or off, if that does not reset the chip. -/
def Obligations.IntervalTimer : Prop :=
  ∀ (s : State) (n m : Nat),
    (s.btm.wdtEn = false → s.btm.cnt = 0 → s.irq.btm = false →
      let period := if s.btm.isel then 32 else 128
      let u := btmPulse^[n] s
      let cleared := { u with irq := { u.irq with btm := false } }
      u.btm.cnt = BitVec.ofNat 7 n ∧ (u.irq.btm = true ↔ period ≤ n) ∧ { u with btm := s.btm, irq := s.irq } = s ∧
        ((btmPulse^[m] cleared).irq.btm = true ↔ n / period < (n + m) / period)) ∧
    (wdtResetsNext s = false →
      let t := clockedCycle s
      t.btm.isel = s.btm.isel ∧ t.btm.ck = s.btm.ck ∧ t.btm.wdtEn = s.btm.wdtEn ∧
        (btmPulseNext s = true → t.btm.cnt = s.btm.cnt + 1 ∧ t.irq.btm = (s.irq.btm ||
          decide ((s.btm.cnt.toNat + 1) % (if s.btm.isel then 32 else 128) = 0))) ∧
        (btmPulseNext s = false → t.btm = s.btm ∧ t.irq.btm = s.irq.btm))

/-- R364, R54-R56, R381: TMnRES clears the count and the request and, for timer 1, sets TM1OUT_FF; BTMRES clears the BTM
counter and its request; without them the count and the request stay, but where TMnEN goes from 0 to 1; the other bits of the
three mode registers are written, and nothing else changes. A start from the stopped state without TMnRES writes TMnEN and
TMnCK too, and makes one count at once where the divided clock selected is low, none where it is high (R367 as log 12 reads
it), nor on fx/16, INT or timer 0's match (log 12): whatever the count does, nothing but counts, timer requests and TM1OUT_FF
changes beside. -/
def Obligations.TimerModeWrites : Prop :=
  ∀ s : State,
   (s.wr.getLsbD 2 = true →
    exec (.poke 0x11) s = .next { s with
      tm0 := { s.tm0 with en := s.wr.getLsbD 3, ck := s.wr.extractLsb' 0 2, count := 0 }
      irq := { s.irq with tm0 := false } } ∧
    exec (.poke 0x12) s = .next { s with
      tm1 := { s.tm1 with en := s.wr.getLsbD 3, ck := s.wr.extractLsb' 0 2, count := 0 }
      irq := { s.irq with tm1 := false }, tm1Out := true } ∧
    exec (.poke 0x13) s = .next { s with
      btm := { s.btm with isel := s.wr.getLsbD 3, ck := s.wr.extractLsb' 0 2, cnt := 0 }
      irq := { s.irq with btm := false } }) ∧
   (s.wr.getLsbD 2 = false →
    (s.tm0.en = true ∨ s.wr.getLsbD 3 = false → exec (.poke 0x11) s = .next { s with
      tm0 := { s.tm0 with en := s.wr.getLsbD 3, ck := s.wr.extractLsb' 0 2 } }) ∧
    (s.tm1.en = true ∨ s.wr.getLsbD 3 = false → exec (.poke 0x12) s = .next { s with
      tm1 := { s.tm1 with en := s.wr.getLsbD 3, ck := s.wr.extractLsb' 0 2 } }) ∧
    exec (.poke 0x13) s = .next { s with
      btm := { s.btm with isel := s.wr.getLsbD 3, ck := s.wr.extractLsb' 0 2 } } ∧
    (s.tm0.en = false → s.wr.getLsbD 3 = true →
      let started := { s with tm0 := { s.tm0 with en := true, ck := s.wr.extractLsb' 0 2 } }
      let low := match (s.wr.extractLsb' 0 2 : BitVec 2).toNat with
        | 1 => decide (s.prescaler.toNat % 32 < 16)
        | 2 => decide (s.prescaler.toNat % 4 < 2)
        | _ => false
      ∃ t, exec (.poke 0x11) s = .next t ∧ t.tm0 = timerAfter started.tm0 low ∧
        t.irq.tm0 = (s.irq.tm0 || timerMatches started.tm0 low) ∧ t = (if low then tm0Pulse started else started) ∧
        { t with
          tm0 := s.tm0, tm1 := { t.tm1 with count := s.tm1.count }, tm1Out := s.tm1Out,
          irq := { t.irq with tm0 := s.irq.tm0, tm1 := s.irq.tm1 } } = s) ∧
    (s.tm1.en = false → s.wr.getLsbD 3 = true →
      let started := { s with tm1 := { s.tm1 with en := true, ck := s.wr.extractLsb' 0 2 } }
      let low := match (s.wr.extractLsb' 0 2 : BitVec 2).toNat with
        | 0 => decide (s.prescaler.toNat % 8 < 4)
        | 1 => decide (s.prescaler.toNat % 512 < 256)
        | _ => false
      ∃ t, exec (.poke 0x12) s = .next t ∧ t = (if low then tm1Pulse started else started) ∧
        (s.mode = .run → t.tm1 = timerAfter started.tm1 low ∧
          t.irq.tm1 = (s.irq.tm1 || timerMatches started.tm1 low) ∧
          t.tm1Out = (s.tm1Out ^^ timerMatches started.tm1 low)) ∧
        t.tm1.en = true ∧ t.tm1.ck = s.wr.extractLsb' 0 2 ∧ t.tm1.modulo = s.tm1.modulo ∧
        { t with tm1 := s.tm1, tm1Out := s.tm1Out, irq := { t.irq with tm1 := s.irq.tm1 } } = s))

/-- R49, R382, R383, D22: a write of the watchdog register touches nothing but WDTEN and the watchdog's two flip-flops. With
WDTRES and WDTEN both 0 it does nothing. While the watchdog is on, WDTRES = 1 clears the carry in counts 8 to 191 and has no
effect outside them, WDTEN = 1 sets the carry in counts 0 to 7, and nothing turns the watchdog off. Written to one that is off,
WDTEN = 1 turns it on, in counts 0 to 7 with the carry set, later with a carry that is open (log 14) unless WDTRES = 1 is
written with it, which acts second (log 14); without WDTEN = 1 it stays off and only the carry may change, which R383 leaves
open there, and not outside counts 8 to 191. -/
def Obligations.WatchdogWrites : Prop :=
  ∀ s : State,
    let wdtres := s.wr.getLsbD 3
    let wdten := s.wr.getLsbD 0
    let w := (wdtCount s.btm).toNat
    let window := decide (8 ≤ w ∧ w ≤ 191)
    (wdtres = false → wdten = false → exec (.poke 0x03) s = .next s) ∧
    (s.btm.wdtEn = true → exec (.poke 0x03) s = .next { s with btm := { s.btm with
      wdtCarry := if wdtres && window then false else if wdten && decide (w < 8) then true else s.btm.wdtCarry } }) ∧
    (s.btm.wdtEn = false → ∃ t, exec (.poke 0x03) s = .next t ∧ t.btm.wdtEn = wdten ∧ t.btm.cnt = s.btm.cnt ∧
      t.btm.isel = s.btm.isel ∧ t.btm.ck = s.btm.ck ∧ { t with btm := s.btm } = s ∧
      (wdten = false → { t.btm with wdtCarry := s.btm.wdtCarry } = s.btm ∧ (wdtres = false ∨ window = false → t = s)) ∧
      (wdten = true → wdtCount t.btm = (0 : BitVec 1) ++ s.btm.cnt ∧
        t.btm.wdtCarry = (if s.btm.cnt.toNat < 8 then true else !wdtres && s.drawBit .wdtCarry)))

/-- R383, R473, D22: each count pulse adds 1 to the 8-bit count WDT_DIV : BTMC of an enabled watchdog, modulo 256, sets the
carry in counts 0 to 7, and resets the chip exactly where the count comes to 192 with the carry set, the BTM counter then being
40H, WDT_DIV 1 and the watchdog off; otherwise it counts, and requests an interrupt, and nothing else. With the watchdog off
WDT_DIV is held at 0 and there is no such reset. A clocked cycle in any mode makes that pulse where `btmPulseNext` says it
comes, resets the chip where it overflows the watchdog and only there (`wdtResetsNext`), and leaves the watchdog alone
without a pulse; what the reset does is said by ResetTable. -/
def Obligations.WatchdogResets : Prop :=
  ∀ s : State, s.rstSig = false →
    let w := wdtCount s.btm + 1
    let carry := decide (w.toNat < 8) || s.btm.wdtCarry
    (s.btm.wdtEn = true →
      let t := btmPulse s
      t.rstSig = (s.btm.wdtCarry && decide (w = 192)) ∧
      (t.rstSig = true → t.pc = 0 ∧ t.mode = .run ∧ t.btm.cnt = 0x40 ∧ t.btm.wdtDiv = true ∧ t.btm.wdtEn = false) ∧
      (t.rstSig = false → wdtCount t.btm = w ∧ t.btm.wdtCarry = carry ∧ t.btm.wdtEn = true ∧
        t.btm.isel = s.btm.isel ∧ t.btm.ck = s.btm.ck ∧
        t.irq.btm = (s.irq.btm || decide (w.toNat % (if s.btm.isel then 32 else 128) = 0)) ∧
        { t with btm := s.btm, irq := { t.irq with btm := s.irq.btm } } = s)) ∧
    (s.btm.wdtEn = false → (btmPulse s).rstSig = false ∧ (btmPulse s).btm.wdtDiv = false ∧
      (btmPulse s).btm.wdtEn = false) ∧
    (let t := clockedCycle s
     t.rstSig = wdtResetsNext s ∧
     (wdtResetsNext s = true → t.pc = 0 ∧ t.mode = .run ∧ t.btm.cnt = 0x40 ∧ t.btm.wdtEn = false ∧
       ∃ u, t = applyReset .wdt u ∧ quietView { u with mode := s.mode } = quietView s) ∧
     (wdtResetsNext s = false →
       (btmPulseNext s = true → s.btm.wdtEn = true → wdtCount t.btm = w ∧ t.btm.wdtCarry = carry ∧ t.btm.wdtEn = true) ∧
       (btmPulseNext s = true → s.btm.wdtEn = false → t.btm.wdtDiv = false ∧ t.btm.wdtEn = false) ∧
       (btmPulseNext s = false → t.btm = s.btm)))

/-- R392: a continuous conversion of a steady input ends after 25 cycles with the greatest code below the input, or 00H, and
ADCEND set. -/
def Obligations.ContinuousConversion : Prop :=
  ∀ s : State, s.adc.soft = false →
    (s.wr.getLsbD 0 = true → exec (.poke 0x20) s = .next (adcStart s)) ∧
    (adcCycle^[25] (adcStart s)).adc.adcr.toNat = min (analogInput s - 1) 255 ∧
    (adcCycle^[25] (adcStart s)).adc.fin = true ∧ (adcCycle^[25] (adcStart s)).adc.seq = .idle ∧
    (∀ n, n < 25 → (adcCycle^[n] (adcStart s)).adc.fin = false)

/-- R393: a single comparison started by PUT ADCR shows its result after the third cycle and 0 before; one started by ADCSTRT
uses the ADCR it finds. -/
def Obligations.SingleComparison : Prop :=
  ∀ s : State, s.adc.soft = true →
    let v := (dbfRead s).extractLsb' 0 8
    exec (.put 0x04) s = .next (writeAdcr s v) ∧
    (adcCycle^[3] (writeAdcr s v)).adc.cmp = decide (v.toNat < analogInput s) ∧
    (∀ n, n < 3 → (adcCycle^[n] (writeAdcr s v)).adc.cmp = false) ∧
    (∀ n, n ≤ 3 → (adcCycle^[n] (writeAdcr s v)).adc.adcr = v) ∧
    (s.wr.getLsbD 0 = true → exec (.poke 0x20) s = .next (adcStart s)) ∧
    (adcCycle^[3] (adcStart s)).adc.cmp = decide (s.adc.adcr.toNat < analogInput s) ∧
    (adcCycle^[3] (adcStart s)).adc.adcr = s.adc.adcr

/-- R60-R62, R394, D24: a POKE to the A/D registers. RF 20H with ADCSTRT = 0 does nothing. RF 21H writes ADCSOFT alone, RF 22H the
four bits of the channel register, of which bits 3 and 2 are storage without function (D5, log 31). An idle converter stays
idle; a conversion in progress, continuous or single, goes on, with an unspecified result if its mode or its channel changes
(log 15). Nothing else changes, of the converter (ADCR, ADCCMP, ADCEND, the register not written) or elsewhere. PEEK reads
ADCSOFT, 0, ADCCMP, ADCEND in 21H and the channel in 22H. -/
def Obligations.ConverterRegisters : Prop :=
  ∀ s : State,
    let goesOn := fun (q : AdcSeq) (changed : Bool) =>
      (s.adc.seq = .idle → q = .idle) ∧
      (∀ n b, s.adc.seq = .continuous n b → q = .continuous n (b || changed)) ∧
      (∀ n b, s.adc.seq = .single n b → q = .single n (b || changed))
    (s.wr.getLsbD 0 = false → exec (.poke 0x20) s = .next s) ∧
    (∃ q, exec (.poke 0x21) s = .next { s with adc := { s.adc with soft := s.wr.getLsbD 3, seq := q } } ∧
      goesOn q (decide (s.wr.getLsbD 3 ≠ s.adc.soft))) ∧
    (∃ q, exec (.poke 0x22) s = .next { s with adc := { s.adc with ch := s.wr, seq := q } } ∧
      goesOn q (decide (s.wr.extractLsb' 0 2 ≠ s.adc.ch.extractLsb' 0 2))) ∧
    (rfRead s 0x21).toNat = 8 * s.adc.soft.toNat + 2 * s.adc.cmp.toNat + s.adc.fin.toNat ∧ rfRead s 0x22 = s.adc.ch

/-- R412, R415: eight clocks of an undisturbed transfer with SI steady shift it into every bit of SIOSFR, leave the last bit
sent in the output latch, clear SIOTS and set IRQSIO. R411, R360: the clock edges of a clocked cycle, by SIOCK: those of the SCK
pin since the sample before (log 16); with fx/16 one of each; with fx/128 and fx/1024 those of the divided clock, which falls
with every 8th or 64th count of the prescaler and rises half-way between (D23, log 38). Without a transfer there is none.
Stated of a cycle in which the watchdog does not reset the chip. -/
def Obligations.SerialTransfer : Prop :=
  (∀ (s : State) (si : Bool), s.ports.sioen = true → s.sio.tainted = false → s.sio.cnt = 0 → s.sio.ts = true →
    s.pins.p0d.driven.getLsbD 2 = true → s.pins.p0d.level.getLsbD 2 = si → s.mode = .run →
    let clock := fun u : State => sioRise (sioFall u)
    let t := clock^[8] s
    t.sio.sfr = (if si then 0xFF else 0x00) ∧ t.sio.soLatch = s.sio.sfr.getLsbD 0 ∧ t.sio.ts = false ∧
      t.irq.sio = true ∧ (∀ n, n < 8 → (clock^[n] s).sio.ts = true ∧
        (clock (clock^[n] s)).sio.soLatch = s.sio.sfr.getLsbD (7 - n))) ∧
  ∀ s : State, wdtResetsNext s = false →
    let t := clockedCycle s
    let p := s.prescaler.toNat + 1
    let falls := match s.sio.ck.toNat with
      | 0 => s.sio.sckPrev && !sckNext s
      | 1 => true
      | 2 => decide (p % 8 = 0)
      | _ => decide (p % 64 = 0)
    let rises := match s.sio.ck.toNat with
      | 0 => !s.sio.sckPrev && sckNext s
      | 1 => true
      | 2 => decide (p % 8 = 4)
      | _ => decide (p % 64 = 32)
    (s.sio.ts = true → serialAfter s t falls rises) ∧ (s.sio.ck = 0 → t.sio.sckPrev = sckNext s) ∧
      (s.sio.ts = false → { t.sio with sckPrev := s.sio.sckPrev } = s.sio ∧ t.irq.sio = s.irq.sio)

/-- R412, R48, R413: a POKE to RF 02H writes SIOHIZ and SIOCK and reads back whole. SIOTS = 1 with SIOEN = 1 starts a transfer from
its first clock and clears IRQSIO; with SIOEN = 0 it is refused (D25); SIOTS = 0 stops one. Either keeps SIOSFR, unless the
transfer it breaks off was disturbed (U14, log 16), and the output latch. -/
def Obligations.SerialStartAndStop : Prop :=
  ∀ s : State,
    (s.wr.getLsbD 3 = true → s.ports.sioen = true → ∃ t, exec (.poke 0x02) s = .next t ∧ t.sio.ts = true ∧
      t.sio.cnt = 0 ∧ t.sio.tainted = false ∧ t.irq = { s.irq with sio := false } ∧
      t.sio.hiz = s.wr.getLsbD 2 ∧ t.sio.ck = s.wr.extractLsb' 0 2 ∧ rfRead t 0x02 = s.wr ∧
      (s.sio.tainted = false → t.sio.sfr = s.sio.sfr) ∧
      t.sio.soLatch = s.sio.soLatch ∧ { t with sio := s.sio, irq := s.irq } = s) ∧
    (s.wr.getLsbD 3 = true → s.ports.sioen = false → exec (.poke 0x02) s = .refused .serialDisabled) ∧
    (s.wr.getLsbD 3 = false → ∃ t, exec (.poke 0x02) s = .next t ∧ t.sio.ts = false ∧
      t.sio.hiz = s.wr.getLsbD 2 ∧ t.sio.ck = s.wr.extractLsb' 0 2 ∧ rfRead t 0x02 = s.wr ∧
      (s.sio.tainted = false → t.sio.sfr = s.sio.sfr) ∧ t.sio.soLatch = s.sio.soLatch ∧ { t with sio := s.sio } = s)

/-- R450, R59: the edge detector sets IRQ on the edge IEGMD selects, and on no other change; a POKE writes IEGMD,
its reserved code being refused (D9). -/
def Obligations.IntEdges : Prop :=
  ∀ s : State,
    ((intCycle s).irq.int = true ↔ s.irq.int = true ∨
      (s.intPrev = false ∧ pinInt s = true ∧ (s.iegmd = 0 ∨ s.iegmd = 2)) ∨
      (s.intPrev = true ∧ pinInt s = false ∧ (s.iegmd = 1 ∨ s.iegmd = 2))) ∧
    (intCycle s).intPrev = pinInt s ∧
    (s.wr.extractLsb' 0 2 ≠ 3 → exec (.poke 0x1F) s = .next { s with iegmd := s.wr.extractLsb' 0 2 }) ∧
    (s.wr.extractLsb' 0 2 = 3 → exec (.poke 0x1F) s = .refused .edgeModeReserved)
end

