-- ==== Sys2Proof/Laws/Memory.lean ====
section
/-! SUPPORT. The laws of memory: read after write, canonical form kept, bounds kept. -/

namespace Sys2Proof.Machine

theorem memGet_erase_same (m : Memory) (a : Nat) : memGet (memErase m a) a = 0 := by
  induction m with
  | nil => rfl
  | cons c rest ih =>
    by_cases h : c.1 = a
    · simpa [memErase, h] using ih
    · simpa [memErase, memGet, h] using ih

theorem memGet_erase_other (m : Memory) (a b : Nat) (h : b ≠ a) : memGet (memErase m a) b = memGet m b := by
  induction m with
  | nil => rfl
  | cons c rest ih =>
    by_cases hc : c.1 = a
    · have : ¬ c.1 = b := fun e => h (e.symm.trans hc)
      simpa [memErase, memGet, hc, this, Ne.symm h] using ih
    · by_cases hb : c.1 = b
      · simp [memErase, memGet, hb, h]
      · simpa [memErase, memGet, hc, hb] using ih

theorem memGet_insert_other (m : Memory) (a : Nat) (v : Byte) (b : Nat) (h : b ≠ a) :
    memGet (memInsert m a v) b = memGet m b := by
  induction m with
  | nil => simp [memInsert, memGet, Ne.symm h]
  | cons c rest ih =>
    unfold memInsert
    split
    · simp [memGet, Ne.symm h]
    · simp [memGet, ih]

theorem memGet_insert_same (m : Memory) (a : Nat) (v : Byte) (h : memGet m a = 0) (hz : ∀ c ∈ m, c.1 ≠ a) :
    memGet (memInsert m a v) a = v := by
  induction m with
  | nil => simp [memInsert, memGet]
  | cons c rest ih =>
    unfold memInsert
    have hc : c.1 ≠ a := hz c (by simp)
    split
    · simp [memGet]
    · have h' : memGet rest a = 0 := by simpa [memGet, hc] using h
      have := ih h' (fun d hd => hz d (by simp [hd]))
      simpa [memGet, hc] using this

theorem memErase_ne (m : Memory) (a : Nat) : ∀ c ∈ memErase m a, c.1 ≠ a := by
  intro c hc
  simpa [memErase] using (List.mem_filter.mp hc).2

/-- A write is read back. -/
@[simp] theorem memGet_set_same (m : Memory) (a : Nat) (v : Byte) : memGet (memSet m a v) a = v := by
  unfold memSet
  split
  · rename_i h; rw [memGet_erase_same, h]
  · exact memGet_insert_same _ _ _ (memGet_erase_same m a) (memErase_ne m a)

/-- A write leaves every other key alone. -/
theorem memGet_set_other (m : Memory) (a : Nat) (v : Byte) (b : Nat) (h : b ≠ a) :
    memGet (memSet m a v) b = memGet m b := by
  unfold memSet
  split
  · exact memGet_erase_other m a b h
  · rw [memGet_insert_other _ _ _ _ h, memGet_erase_other _ _ _ h]

/-- The canonical form of a list of cells, said by `List.Pairwise`. -/
theorem Memory.wf_iff (m : Memory) :
    Memory.wf m = true ↔ m.Pairwise (fun c d => c.1 < d.1) ∧ ∀ c ∈ m, c.2 ≠ 0 := by
  induction m with
  | nil => simp [Memory.wf]
  | cons c rest ih =>
    cases rest with
    | nil => simp [Memory.wf]
    | cons d rest =>
      unfold Memory.wf
      rw [Bool.and_eq_true, Bool.and_eq_true, ih]
      simp only [decide_eq_true_eq, List.pairwise_cons, List.mem_cons, forall_eq_or_imp]
      constructor
      · rintro ⟨⟨h0, h1⟩, ⟨h2, h3⟩, h4, h5⟩
        exact ⟨⟨⟨h1, fun x hx => Nat.lt_trans h1 (h2 x hx)⟩, h2, h3⟩, h0, h4, h5⟩
      · rintro ⟨⟨⟨h1, _⟩, h2, h3⟩, h0, h4, h5⟩
        exact ⟨⟨h0, h1⟩, ⟨h2, h3⟩, h4, h5⟩

theorem mem_memInsert (m : Memory) (a : Nat) (v : Byte) (c : Host.Cell) :
    c ∈ memInsert m a v ↔ c = (a, v) ∨ c ∈ m := by
  induction m with
  | nil => simp [memInsert]
  | cons d rest ih =>
    unfold memInsert
    split
    · simp
    · simp only [List.mem_cons, ih]; tauto

theorem memInsert_sorted (m : Memory) (a : Nat) (v : Byte) (h : m.Pairwise (fun c d => c.1 < d.1))
    (hne : ∀ c ∈ m, c.1 ≠ a) : (memInsert m a v).Pairwise (fun c d => c.1 < d.1) := by
  induction m with
  | nil => simp [memInsert]
  | cons d rest ih =>
    rw [List.pairwise_cons] at h
    unfold memInsert
    split
    · rename_i hlt
      refine List.pairwise_cons.mpr ⟨?_, List.pairwise_cons.mpr h⟩
      intro x hx
      rcases List.mem_cons.mp hx with rfl | hx
      · exact hlt
      · exact Nat.lt_trans hlt (h.1 x hx)
    · rename_i hge
      have hd := hne d (by simp)
      refine List.pairwise_cons.mpr ⟨?_, ih h.2 (fun c hc => hne c (by simp [hc]))⟩
      intro x hx
      rcases (mem_memInsert rest a v x).mp hx with rfl | hx
      · simp only; omega
      · exact h.1 x hx

/-- A write keeps the canonical form. -/
theorem memSet_wf (m : Memory) (a : Nat) (v : Byte) (h : Memory.wf m = true) : Memory.wf (memSet m a v) = true := by
  rw [Memory.wf_iff] at h ⊢
  have hs : (memErase m a).Pairwise (fun c d => c.1 < d.1) := h.1.filter _
  have hz : ∀ c ∈ memErase m a, c.2 ≠ 0 := fun c hc => h.2 c (List.mem_filter.mp hc).1
  unfold memSet
  split
  · exact ⟨hs, hz⟩
  · rename_i hv
    refine ⟨memInsert_sorted _ _ _ hs (memErase_ne m a), ?_⟩
    intro c hc
    rcases (mem_memInsert _ _ _ _).mp hc with rfl | hc
    · exact hv
    · exact hz c hc

/-- A property of every cell is kept by a write of a cell that has it. -/
theorem memSet_all (p : Host.Cell → Bool) (m : Memory) (a : Nat) (v : Byte) (h : m.all p = true)
    (hv : p (a, v) = true) : (memSet m a v).all p = true := by
  rw [List.all_eq_true] at h ⊢
  intro c hc
  unfold memSet at hc
  split at hc
  · exact h c (List.mem_filter.mp hc).1
  · rcases (mem_memInsert _ _ _ _).mp hc with rfl | hc
    · exact hv
    · exact h c (List.mem_filter.mp hc).1

theorem memSet_below (m : Memory) (a : Nat) (v : Byte) (n : Nat) (h : Memory.below m n = true) (ha : a < n) :
    Memory.below (memSet m a v) n = true :=
  memSet_all _ m a v h (by simpa using ha)

theorem memSet_nibbles (m : Memory) (a : Nat) (v : Byte) (h : Memory.nibbles m = true) (hv : v.toNat < 16) :
    Memory.nibbles (memSet m a v) = true :=
  memSet_all _ m a v h (by simpa using hv)

/-- A fill keeps any property that each of its writes keeps. -/
theorem memFill_induct (P : Memory → Prop) (f : Nat → Byte) (a n : Nat) (m : Memory) (h : P m)
    (hs : ∀ m k, k < n → P m → P (memSet m (a + k) (f (a + k)))) : P (memFill f a n m) := by
  induction n generalizing m with
  | zero => exact h
  | succ k ih =>
    exact ih _ (hs m k (Nat.lt_succ_self k) h) (fun m j hj hm => hs m j (Nat.lt_succ_of_lt hj) hm)

/-- A filled key reads its value. -/
theorem memGet_fill (f : Nat → Byte) (a n : Nat) (m : Memory) (b : Nat) (h : a ≤ b ∧ b < a + n) :
    memGet (memFill f a n m) b = f b := by
  induction n generalizing m with
  | zero => omega
  | succ k ih =>
    by_cases hb : b = a + k
    · subst hb
      have : ∀ j (m : Memory), j ≤ k → memGet (memFill f a j m) (a + k) = memGet m (a + k) := by
        intro j
        induction j with
        | zero => intro m _; rfl
        | succ j ihj =>
          intro m hj
          rw [memFill, ihj _ (by omega), memGet_set_other _ _ _ _ (by omega)]
      rw [memFill, this k _ (Nat.le_refl k), memGet_set_same]
    · exact ih _ (by omega)

/-- A key outside a fill is left alone. -/
theorem memGet_fill_other (f : Nat → Byte) (a n : Nat) (m : Memory) (b : Nat) (h : b < a ∨ a + n ≤ b) :
    memGet (memFill f a n m) b = memGet m b := by
  induction n generalizing m with
  | zero => rfl
  | succ k ih => rw [memFill, ih _ (by omega), memGet_set_other _ _ _ _ (by omega)]

/-- A RAM nibble is read back. -/
@[simp] theorem ramGet_set_same (m : Memory) (a : DAddr) (v : Nibble) : ramGet (ramSet m a v) a = v := by
  simp [ramGet, ramSet]

/-- A RAM write leaves every other nibble alone. -/
theorem ramGet_set_other (m : Memory) (a b : DAddr) (v : Nibble) (h : b ≠ a) :
    ramGet (ramSet m a v) b = ramGet m b := by
  have : b.toNat ≠ a.toNat := fun e => h (BitVec.eq_of_toNat_eq e)
  simp [ramGet, ramSet, memGet_set_other _ _ _ _ this]

theorem ramSet_wf (m : Memory) (a : DAddr) (v : Nibble) (h : Memory.wf m = true) : Memory.wf (ramSet m a v) = true :=
  memSet_wf m _ _ h

theorem ramSet_below (m : Memory) (a : DAddr) (v : Nibble) (n : Nat) (h : Memory.below m n = true) (ha : a.toNat < n) :
    Memory.below (ramSet m a v) n = true :=
  memSet_below m _ _ n h ha

theorem ramSet_nibbles (m : Memory) (a : DAddr) (v : Nibble) (h : Memory.nibbles m = true) :
    Memory.nibbles (ramSet m a v) = true :=
  memSet_nibbles m _ _ h (by have := v.isLt; simp; omega)

/-- Loading a word keeps the canonical form. -/
theorem romLoad_wf (m : Memory) (a : PAddr) (w : Word) (h : Memory.wf m = true) : Memory.wf (romLoad m a w) = true :=
  memSet_wf _ _ _ (memSet_wf _ _ _ h)

/-- A loaded word is fetched. -/
theorem romWord_load_same (m : Memory) (a : PAddr) (w : Word) : romWord (romLoad m a w) a = w := by
  unfold romWord romLoad
  rw [memGet_set_same, memGet_set_other _ _ _ _ (by omega), memGet_set_same]
  apply BitVec.eq_of_getLsbD_eq
  intro i hi
  simp only [BitVec.getLsbD_append, BitVec.getLsbD_extractLsb']
  by_cases h : i < 8
  · simp [h]
  · have h1 : i - 8 < 8 := by omega
    have h2 : 8 + (i - 8) = i := by omega
    simp [h, h1, h2]

end Sys2Proof.Machine
end

