-- ==== Sys2Proof/Laws/State.lean ====
section
/-! SUPPORT. What each update of the state leaves alone: one lemma per field per update, true by rfl. -/

namespace Sys2Proof.Machine

/-! ### setPc -/

@[simp] theorem setPc_cfg (s : State) (v : PAddr) : (setPc s v).cfg = s.cfg := rfl
@[simp] theorem setPc_rom (s : State) (v : PAddr) : (setPc s v).rom = s.rom := rfl
@[simp] theorem setPc_ram (s : State) (v : PAddr) : (setPc s v).ram = s.ram := rfl
@[simp] theorem setPc_sp (s : State) (v : PAddr) : (setPc s v).sp = s.sp := rfl
@[simp] theorem setPc_asr (s : State) (v : PAddr) : (setPc s v).asr = s.asr := rfl
@[simp] theorem setPc_intsk (s : State) (v : PAddr) : (setPc s v).intsk = s.intsk := rfl
@[simp] theorem setPc_ar (s : State) (v : PAddr) : (setPc s v).ar = s.ar := rfl
@[simp] theorem setPc_wr (s : State) (v : PAddr) : (setPc s v).wr = s.wr := rfl
@[simp] theorem setPc_ix (s : State) (v : PAddr) : (setPc s v).ix = s.ix := rfl
@[simp] theorem setPc_mpe (s : State) (v : PAddr) : (setPc s v).mpe = s.mpe := rfl
@[simp] theorem setPc_rpRow (s : State) (v : PAddr) : (setPc s v).rpRow = s.rpRow := rfl
@[simp] theorem setPc_psw (s : State) (v : PAddr) : (setPc s v).psw = s.psw := rfl
@[simp] theorem setPc_skip (s : State) (v : PAddr) : (setPc s v).skip = s.skip := rfl
@[simp] theorem setPc_inte (s : State) (v : PAddr) : (setPc s v).inte = s.inte := rfl
@[simp] theorem setPc_eiPending (s : State) (v : PAddr) : (setPc s v).eiPending = s.eiPending := rfl
@[simp] theorem setPc_mode (s : State) (v : PAddr) : (setPc s v).mode = s.mode := rfl
@[simp] theorem setPc_ports (s : State) (v : PAddr) : (setPc s v).ports = s.ports := rfl
@[simp] theorem setPc_tm0 (s : State) (v : PAddr) : (setPc s v).tm0 = s.tm0 := rfl
@[simp] theorem setPc_tm1 (s : State) (v : PAddr) : (setPc s v).tm1 = s.tm1 := rfl
@[simp] theorem setPc_tm1Out (s : State) (v : PAddr) : (setPc s v).tm1Out = s.tm1Out := rfl
@[simp] theorem setPc_btm (s : State) (v : PAddr) : (setPc s v).btm = s.btm := rfl
@[simp] theorem setPc_adc (s : State) (v : PAddr) : (setPc s v).adc = s.adc := rfl
@[simp] theorem setPc_sio (s : State) (v : PAddr) : (setPc s v).sio = s.sio := rfl
@[simp] theorem setPc_irq (s : State) (v : PAddr) : (setPc s v).irq = s.irq := rfl
@[simp] theorem setPc_ip (s : State) (v : PAddr) : (setPc s v).ip = s.ip := rfl
@[simp] theorem setPc_irqDly (s : State) (v : PAddr) : (setPc s v).irqDly = s.irqDly := rfl
@[simp] theorem setPc_iegmd (s : State) (v : PAddr) : (setPc s v).iegmd = s.iegmd := rfl
@[simp] theorem setPc_intPrev (s : State) (v : PAddr) : (setPc s v).intPrev = s.intPrev := rfl
@[simp] theorem setPc_prescaler (s : State) (v : PAddr) : (setPc s v).prescaler = s.prescaler := rfl
@[simp] theorem setPc_pins (s : State) (v : PAddr) : (setPc s v).pins = s.pins := rfl
@[simp] theorem setPc_inputs (s : State) (v : PAddr) : (setPc s v).inputs = s.inputs := rfl
@[simp] theorem setPc_rstSig (s : State) (v : PAddr) : (setPc s v).rstSig = s.rstSig := rfl
@[simp] theorem setPc_freeIdx (s : State) (v : PAddr) : (setPc s v).freeIdx = s.freeIdx := rfl

/-! ### setAr -/

@[simp] theorem setAr_cfg (s : State) (v : PAddr) : (setAr s v).cfg = s.cfg := rfl
@[simp] theorem setAr_rom (s : State) (v : PAddr) : (setAr s v).rom = s.rom := rfl
@[simp] theorem setAr_ram (s : State) (v : PAddr) : (setAr s v).ram = s.ram := rfl
@[simp] theorem setAr_pc (s : State) (v : PAddr) : (setAr s v).pc = s.pc := rfl
@[simp] theorem setAr_sp (s : State) (v : PAddr) : (setAr s v).sp = s.sp := rfl
@[simp] theorem setAr_asr (s : State) (v : PAddr) : (setAr s v).asr = s.asr := rfl
@[simp] theorem setAr_intsk (s : State) (v : PAddr) : (setAr s v).intsk = s.intsk := rfl
@[simp] theorem setAr_wr (s : State) (v : PAddr) : (setAr s v).wr = s.wr := rfl
@[simp] theorem setAr_ix (s : State) (v : PAddr) : (setAr s v).ix = s.ix := rfl
@[simp] theorem setAr_mpe (s : State) (v : PAddr) : (setAr s v).mpe = s.mpe := rfl
@[simp] theorem setAr_rpRow (s : State) (v : PAddr) : (setAr s v).rpRow = s.rpRow := rfl
@[simp] theorem setAr_psw (s : State) (v : PAddr) : (setAr s v).psw = s.psw := rfl
@[simp] theorem setAr_skip (s : State) (v : PAddr) : (setAr s v).skip = s.skip := rfl
@[simp] theorem setAr_inte (s : State) (v : PAddr) : (setAr s v).inte = s.inte := rfl
@[simp] theorem setAr_eiPending (s : State) (v : PAddr) : (setAr s v).eiPending = s.eiPending := rfl
@[simp] theorem setAr_mode (s : State) (v : PAddr) : (setAr s v).mode = s.mode := rfl
@[simp] theorem setAr_ports (s : State) (v : PAddr) : (setAr s v).ports = s.ports := rfl
@[simp] theorem setAr_tm0 (s : State) (v : PAddr) : (setAr s v).tm0 = s.tm0 := rfl
@[simp] theorem setAr_tm1 (s : State) (v : PAddr) : (setAr s v).tm1 = s.tm1 := rfl
@[simp] theorem setAr_tm1Out (s : State) (v : PAddr) : (setAr s v).tm1Out = s.tm1Out := rfl
@[simp] theorem setAr_btm (s : State) (v : PAddr) : (setAr s v).btm = s.btm := rfl
@[simp] theorem setAr_adc (s : State) (v : PAddr) : (setAr s v).adc = s.adc := rfl
@[simp] theorem setAr_sio (s : State) (v : PAddr) : (setAr s v).sio = s.sio := rfl
@[simp] theorem setAr_irq (s : State) (v : PAddr) : (setAr s v).irq = s.irq := rfl
@[simp] theorem setAr_ip (s : State) (v : PAddr) : (setAr s v).ip = s.ip := rfl
@[simp] theorem setAr_irqDly (s : State) (v : PAddr) : (setAr s v).irqDly = s.irqDly := rfl
@[simp] theorem setAr_iegmd (s : State) (v : PAddr) : (setAr s v).iegmd = s.iegmd := rfl
@[simp] theorem setAr_intPrev (s : State) (v : PAddr) : (setAr s v).intPrev = s.intPrev := rfl
@[simp] theorem setAr_prescaler (s : State) (v : PAddr) : (setAr s v).prescaler = s.prescaler := rfl
@[simp] theorem setAr_pins (s : State) (v : PAddr) : (setAr s v).pins = s.pins := rfl
@[simp] theorem setAr_inputs (s : State) (v : PAddr) : (setAr s v).inputs = s.inputs := rfl
@[simp] theorem setAr_rstSig (s : State) (v : PAddr) : (setAr s v).rstSig = s.rstSig := rfl
@[simp] theorem setAr_freeIdx (s : State) (v : PAddr) : (setAr s v).freeIdx = s.freeIdx := rfl

/-! ### writeP0A -/

@[simp] theorem writeP0A_cfg (s : State) (v : Nibble) : (writeP0A s v).cfg = s.cfg := rfl
@[simp] theorem writeP0A_rom (s : State) (v : Nibble) : (writeP0A s v).rom = s.rom := rfl
@[simp] theorem writeP0A_ram (s : State) (v : Nibble) : (writeP0A s v).ram = s.ram := rfl
@[simp] theorem writeP0A_pc (s : State) (v : Nibble) : (writeP0A s v).pc = s.pc := rfl
@[simp] theorem writeP0A_sp (s : State) (v : Nibble) : (writeP0A s v).sp = s.sp := rfl
@[simp] theorem writeP0A_asr (s : State) (v : Nibble) : (writeP0A s v).asr = s.asr := rfl
@[simp] theorem writeP0A_intsk (s : State) (v : Nibble) : (writeP0A s v).intsk = s.intsk := rfl
@[simp] theorem writeP0A_ar (s : State) (v : Nibble) : (writeP0A s v).ar = s.ar := rfl
@[simp] theorem writeP0A_wr (s : State) (v : Nibble) : (writeP0A s v).wr = s.wr := rfl
@[simp] theorem writeP0A_ix (s : State) (v : Nibble) : (writeP0A s v).ix = s.ix := rfl
@[simp] theorem writeP0A_mpe (s : State) (v : Nibble) : (writeP0A s v).mpe = s.mpe := rfl
@[simp] theorem writeP0A_rpRow (s : State) (v : Nibble) : (writeP0A s v).rpRow = s.rpRow := rfl
@[simp] theorem writeP0A_psw (s : State) (v : Nibble) : (writeP0A s v).psw = s.psw := rfl
@[simp] theorem writeP0A_skip (s : State) (v : Nibble) : (writeP0A s v).skip = s.skip := rfl
@[simp] theorem writeP0A_inte (s : State) (v : Nibble) : (writeP0A s v).inte = s.inte := rfl
@[simp] theorem writeP0A_eiPending (s : State) (v : Nibble) : (writeP0A s v).eiPending = s.eiPending := rfl
@[simp] theorem writeP0A_mode (s : State) (v : Nibble) : (writeP0A s v).mode = s.mode := rfl
@[simp] theorem writeP0A_tm0 (s : State) (v : Nibble) : (writeP0A s v).tm0 = s.tm0 := rfl
@[simp] theorem writeP0A_tm1 (s : State) (v : Nibble) : (writeP0A s v).tm1 = s.tm1 := rfl
@[simp] theorem writeP0A_tm1Out (s : State) (v : Nibble) : (writeP0A s v).tm1Out = s.tm1Out := rfl
@[simp] theorem writeP0A_btm (s : State) (v : Nibble) : (writeP0A s v).btm = s.btm := rfl
@[simp] theorem writeP0A_adc (s : State) (v : Nibble) : (writeP0A s v).adc = s.adc := rfl
@[simp] theorem writeP0A_sio (s : State) (v : Nibble) : (writeP0A s v).sio = s.sio := rfl
@[simp] theorem writeP0A_irq (s : State) (v : Nibble) : (writeP0A s v).irq = s.irq := rfl
@[simp] theorem writeP0A_ip (s : State) (v : Nibble) : (writeP0A s v).ip = s.ip := rfl
@[simp] theorem writeP0A_irqDly (s : State) (v : Nibble) : (writeP0A s v).irqDly = s.irqDly := rfl
@[simp] theorem writeP0A_iegmd (s : State) (v : Nibble) : (writeP0A s v).iegmd = s.iegmd := rfl
@[simp] theorem writeP0A_intPrev (s : State) (v : Nibble) : (writeP0A s v).intPrev = s.intPrev := rfl
@[simp] theorem writeP0A_prescaler (s : State) (v : Nibble) : (writeP0A s v).prescaler = s.prescaler := rfl
@[simp] theorem writeP0A_pins (s : State) (v : Nibble) : (writeP0A s v).pins = s.pins := rfl
@[simp] theorem writeP0A_inputs (s : State) (v : Nibble) : (writeP0A s v).inputs = s.inputs := rfl
@[simp] theorem writeP0A_rstSig (s : State) (v : Nibble) : (writeP0A s v).rstSig = s.rstSig := rfl
@[simp] theorem writeP0A_freeIdx (s : State) (v : Nibble) : (writeP0A s v).freeIdx = s.freeIdx := rfl

/-! ### writeP0B -/

@[simp] theorem writeP0B_cfg (s : State) (v : Nibble) : (writeP0B s v).cfg = s.cfg := rfl
@[simp] theorem writeP0B_rom (s : State) (v : Nibble) : (writeP0B s v).rom = s.rom := rfl
@[simp] theorem writeP0B_ram (s : State) (v : Nibble) : (writeP0B s v).ram = s.ram := rfl
@[simp] theorem writeP0B_pc (s : State) (v : Nibble) : (writeP0B s v).pc = s.pc := rfl
@[simp] theorem writeP0B_sp (s : State) (v : Nibble) : (writeP0B s v).sp = s.sp := rfl
@[simp] theorem writeP0B_asr (s : State) (v : Nibble) : (writeP0B s v).asr = s.asr := rfl
@[simp] theorem writeP0B_intsk (s : State) (v : Nibble) : (writeP0B s v).intsk = s.intsk := rfl
@[simp] theorem writeP0B_ar (s : State) (v : Nibble) : (writeP0B s v).ar = s.ar := rfl
@[simp] theorem writeP0B_wr (s : State) (v : Nibble) : (writeP0B s v).wr = s.wr := rfl
@[simp] theorem writeP0B_ix (s : State) (v : Nibble) : (writeP0B s v).ix = s.ix := rfl
@[simp] theorem writeP0B_mpe (s : State) (v : Nibble) : (writeP0B s v).mpe = s.mpe := rfl
@[simp] theorem writeP0B_rpRow (s : State) (v : Nibble) : (writeP0B s v).rpRow = s.rpRow := rfl
@[simp] theorem writeP0B_psw (s : State) (v : Nibble) : (writeP0B s v).psw = s.psw := rfl
@[simp] theorem writeP0B_skip (s : State) (v : Nibble) : (writeP0B s v).skip = s.skip := rfl
@[simp] theorem writeP0B_inte (s : State) (v : Nibble) : (writeP0B s v).inte = s.inte := rfl
@[simp] theorem writeP0B_eiPending (s : State) (v : Nibble) : (writeP0B s v).eiPending = s.eiPending := rfl
@[simp] theorem writeP0B_mode (s : State) (v : Nibble) : (writeP0B s v).mode = s.mode := rfl
@[simp] theorem writeP0B_tm0 (s : State) (v : Nibble) : (writeP0B s v).tm0 = s.tm0 := rfl
@[simp] theorem writeP0B_tm1 (s : State) (v : Nibble) : (writeP0B s v).tm1 = s.tm1 := rfl
@[simp] theorem writeP0B_tm1Out (s : State) (v : Nibble) : (writeP0B s v).tm1Out = s.tm1Out := rfl
@[simp] theorem writeP0B_btm (s : State) (v : Nibble) : (writeP0B s v).btm = s.btm := rfl
@[simp] theorem writeP0B_adc (s : State) (v : Nibble) : (writeP0B s v).adc = s.adc := rfl
@[simp] theorem writeP0B_sio (s : State) (v : Nibble) : (writeP0B s v).sio = s.sio := rfl
@[simp] theorem writeP0B_irq (s : State) (v : Nibble) : (writeP0B s v).irq = s.irq := rfl
@[simp] theorem writeP0B_ip (s : State) (v : Nibble) : (writeP0B s v).ip = s.ip := rfl
@[simp] theorem writeP0B_irqDly (s : State) (v : Nibble) : (writeP0B s v).irqDly = s.irqDly := rfl
@[simp] theorem writeP0B_iegmd (s : State) (v : Nibble) : (writeP0B s v).iegmd = s.iegmd := rfl
@[simp] theorem writeP0B_intPrev (s : State) (v : Nibble) : (writeP0B s v).intPrev = s.intPrev := rfl
@[simp] theorem writeP0B_prescaler (s : State) (v : Nibble) : (writeP0B s v).prescaler = s.prescaler := rfl
@[simp] theorem writeP0B_pins (s : State) (v : Nibble) : (writeP0B s v).pins = s.pins := rfl
@[simp] theorem writeP0B_inputs (s : State) (v : Nibble) : (writeP0B s v).inputs = s.inputs := rfl
@[simp] theorem writeP0B_rstSig (s : State) (v : Nibble) : (writeP0B s v).rstSig = s.rstSig := rfl
@[simp] theorem writeP0B_freeIdx (s : State) (v : Nibble) : (writeP0B s v).freeIdx = s.freeIdx := rfl

/-! ### writeP0C -/

@[simp] theorem writeP0C_cfg (s : State) (v : Nibble) : (writeP0C s v).cfg = s.cfg := rfl
@[simp] theorem writeP0C_rom (s : State) (v : Nibble) : (writeP0C s v).rom = s.rom := rfl
@[simp] theorem writeP0C_ram (s : State) (v : Nibble) : (writeP0C s v).ram = s.ram := rfl
@[simp] theorem writeP0C_pc (s : State) (v : Nibble) : (writeP0C s v).pc = s.pc := rfl
@[simp] theorem writeP0C_sp (s : State) (v : Nibble) : (writeP0C s v).sp = s.sp := rfl
@[simp] theorem writeP0C_asr (s : State) (v : Nibble) : (writeP0C s v).asr = s.asr := rfl
@[simp] theorem writeP0C_intsk (s : State) (v : Nibble) : (writeP0C s v).intsk = s.intsk := rfl
@[simp] theorem writeP0C_ar (s : State) (v : Nibble) : (writeP0C s v).ar = s.ar := rfl
@[simp] theorem writeP0C_wr (s : State) (v : Nibble) : (writeP0C s v).wr = s.wr := rfl
@[simp] theorem writeP0C_ix (s : State) (v : Nibble) : (writeP0C s v).ix = s.ix := rfl
@[simp] theorem writeP0C_mpe (s : State) (v : Nibble) : (writeP0C s v).mpe = s.mpe := rfl
@[simp] theorem writeP0C_rpRow (s : State) (v : Nibble) : (writeP0C s v).rpRow = s.rpRow := rfl
@[simp] theorem writeP0C_psw (s : State) (v : Nibble) : (writeP0C s v).psw = s.psw := rfl
@[simp] theorem writeP0C_skip (s : State) (v : Nibble) : (writeP0C s v).skip = s.skip := rfl
@[simp] theorem writeP0C_inte (s : State) (v : Nibble) : (writeP0C s v).inte = s.inte := rfl
@[simp] theorem writeP0C_eiPending (s : State) (v : Nibble) : (writeP0C s v).eiPending = s.eiPending := rfl
@[simp] theorem writeP0C_mode (s : State) (v : Nibble) : (writeP0C s v).mode = s.mode := rfl
@[simp] theorem writeP0C_tm0 (s : State) (v : Nibble) : (writeP0C s v).tm0 = s.tm0 := rfl
@[simp] theorem writeP0C_tm1 (s : State) (v : Nibble) : (writeP0C s v).tm1 = s.tm1 := rfl
@[simp] theorem writeP0C_tm1Out (s : State) (v : Nibble) : (writeP0C s v).tm1Out = s.tm1Out := rfl
@[simp] theorem writeP0C_btm (s : State) (v : Nibble) : (writeP0C s v).btm = s.btm := rfl
@[simp] theorem writeP0C_adc (s : State) (v : Nibble) : (writeP0C s v).adc = s.adc := rfl
@[simp] theorem writeP0C_sio (s : State) (v : Nibble) : (writeP0C s v).sio = s.sio := rfl
@[simp] theorem writeP0C_irq (s : State) (v : Nibble) : (writeP0C s v).irq = s.irq := rfl
@[simp] theorem writeP0C_ip (s : State) (v : Nibble) : (writeP0C s v).ip = s.ip := rfl
@[simp] theorem writeP0C_irqDly (s : State) (v : Nibble) : (writeP0C s v).irqDly = s.irqDly := rfl
@[simp] theorem writeP0C_iegmd (s : State) (v : Nibble) : (writeP0C s v).iegmd = s.iegmd := rfl
@[simp] theorem writeP0C_intPrev (s : State) (v : Nibble) : (writeP0C s v).intPrev = s.intPrev := rfl
@[simp] theorem writeP0C_prescaler (s : State) (v : Nibble) : (writeP0C s v).prescaler = s.prescaler := rfl
@[simp] theorem writeP0C_pins (s : State) (v : Nibble) : (writeP0C s v).pins = s.pins := rfl
@[simp] theorem writeP0C_inputs (s : State) (v : Nibble) : (writeP0C s v).inputs = s.inputs := rfl
@[simp] theorem writeP0C_rstSig (s : State) (v : Nibble) : (writeP0C s v).rstSig = s.rstSig := rfl
@[simp] theorem writeP0C_freeIdx (s : State) (v : Nibble) : (writeP0C s v).freeIdx = s.freeIdx := rfl

/-! ### writeP0D -/

@[simp] theorem writeP0D_cfg (s : State) (v : Nibble) : (writeP0D s v).cfg = s.cfg := rfl
@[simp] theorem writeP0D_rom (s : State) (v : Nibble) : (writeP0D s v).rom = s.rom := rfl
@[simp] theorem writeP0D_ram (s : State) (v : Nibble) : (writeP0D s v).ram = s.ram := rfl
@[simp] theorem writeP0D_pc (s : State) (v : Nibble) : (writeP0D s v).pc = s.pc := rfl
@[simp] theorem writeP0D_sp (s : State) (v : Nibble) : (writeP0D s v).sp = s.sp := rfl
@[simp] theorem writeP0D_asr (s : State) (v : Nibble) : (writeP0D s v).asr = s.asr := rfl
@[simp] theorem writeP0D_intsk (s : State) (v : Nibble) : (writeP0D s v).intsk = s.intsk := rfl
@[simp] theorem writeP0D_ar (s : State) (v : Nibble) : (writeP0D s v).ar = s.ar := rfl
@[simp] theorem writeP0D_wr (s : State) (v : Nibble) : (writeP0D s v).wr = s.wr := rfl
@[simp] theorem writeP0D_ix (s : State) (v : Nibble) : (writeP0D s v).ix = s.ix := rfl
@[simp] theorem writeP0D_mpe (s : State) (v : Nibble) : (writeP0D s v).mpe = s.mpe := rfl
@[simp] theorem writeP0D_rpRow (s : State) (v : Nibble) : (writeP0D s v).rpRow = s.rpRow := rfl
@[simp] theorem writeP0D_psw (s : State) (v : Nibble) : (writeP0D s v).psw = s.psw := rfl
@[simp] theorem writeP0D_skip (s : State) (v : Nibble) : (writeP0D s v).skip = s.skip := rfl
@[simp] theorem writeP0D_inte (s : State) (v : Nibble) : (writeP0D s v).inte = s.inte := rfl
@[simp] theorem writeP0D_eiPending (s : State) (v : Nibble) : (writeP0D s v).eiPending = s.eiPending := rfl
@[simp] theorem writeP0D_mode (s : State) (v : Nibble) : (writeP0D s v).mode = s.mode := rfl
@[simp] theorem writeP0D_tm0 (s : State) (v : Nibble) : (writeP0D s v).tm0 = s.tm0 := rfl
@[simp] theorem writeP0D_tm1 (s : State) (v : Nibble) : (writeP0D s v).tm1 = s.tm1 := rfl
@[simp] theorem writeP0D_tm1Out (s : State) (v : Nibble) : (writeP0D s v).tm1Out = s.tm1Out := rfl
@[simp] theorem writeP0D_btm (s : State) (v : Nibble) : (writeP0D s v).btm = s.btm := rfl
@[simp] theorem writeP0D_adc (s : State) (v : Nibble) : (writeP0D s v).adc = s.adc := rfl
@[simp] theorem writeP0D_sio (s : State) (v : Nibble) : (writeP0D s v).sio = s.sio := rfl
@[simp] theorem writeP0D_irq (s : State) (v : Nibble) : (writeP0D s v).irq = s.irq := rfl
@[simp] theorem writeP0D_ip (s : State) (v : Nibble) : (writeP0D s v).ip = s.ip := rfl
@[simp] theorem writeP0D_irqDly (s : State) (v : Nibble) : (writeP0D s v).irqDly = s.irqDly := rfl
@[simp] theorem writeP0D_iegmd (s : State) (v : Nibble) : (writeP0D s v).iegmd = s.iegmd := rfl
@[simp] theorem writeP0D_intPrev (s : State) (v : Nibble) : (writeP0D s v).intPrev = s.intPrev := rfl
@[simp] theorem writeP0D_prescaler (s : State) (v : Nibble) : (writeP0D s v).prescaler = s.prescaler := rfl
@[simp] theorem writeP0D_pins (s : State) (v : Nibble) : (writeP0D s v).pins = s.pins := rfl
@[simp] theorem writeP0D_inputs (s : State) (v : Nibble) : (writeP0D s v).inputs = s.inputs := rfl
@[simp] theorem writeP0D_rstSig (s : State) (v : Nibble) : (writeP0D s v).rstSig = s.rstSig := rfl
@[simp] theorem writeP0D_freeIdx (s : State) (v : Nibble) : (writeP0D s v).freeIdx = s.freeIdx := rfl

/-! ### writeP0E -/

@[simp] theorem writeP0E_cfg (s : State) (v : Nibble) : (writeP0E s v).cfg = s.cfg := rfl
@[simp] theorem writeP0E_rom (s : State) (v : Nibble) : (writeP0E s v).rom = s.rom := rfl
@[simp] theorem writeP0E_ram (s : State) (v : Nibble) : (writeP0E s v).ram = s.ram := rfl
@[simp] theorem writeP0E_pc (s : State) (v : Nibble) : (writeP0E s v).pc = s.pc := rfl
@[simp] theorem writeP0E_sp (s : State) (v : Nibble) : (writeP0E s v).sp = s.sp := rfl
@[simp] theorem writeP0E_asr (s : State) (v : Nibble) : (writeP0E s v).asr = s.asr := rfl
@[simp] theorem writeP0E_intsk (s : State) (v : Nibble) : (writeP0E s v).intsk = s.intsk := rfl
@[simp] theorem writeP0E_ar (s : State) (v : Nibble) : (writeP0E s v).ar = s.ar := rfl
@[simp] theorem writeP0E_wr (s : State) (v : Nibble) : (writeP0E s v).wr = s.wr := rfl
@[simp] theorem writeP0E_ix (s : State) (v : Nibble) : (writeP0E s v).ix = s.ix := rfl
@[simp] theorem writeP0E_mpe (s : State) (v : Nibble) : (writeP0E s v).mpe = s.mpe := rfl
@[simp] theorem writeP0E_rpRow (s : State) (v : Nibble) : (writeP0E s v).rpRow = s.rpRow := rfl
@[simp] theorem writeP0E_psw (s : State) (v : Nibble) : (writeP0E s v).psw = s.psw := rfl
@[simp] theorem writeP0E_skip (s : State) (v : Nibble) : (writeP0E s v).skip = s.skip := rfl
@[simp] theorem writeP0E_inte (s : State) (v : Nibble) : (writeP0E s v).inte = s.inte := rfl
@[simp] theorem writeP0E_eiPending (s : State) (v : Nibble) : (writeP0E s v).eiPending = s.eiPending := rfl
@[simp] theorem writeP0E_mode (s : State) (v : Nibble) : (writeP0E s v).mode = s.mode := rfl
@[simp] theorem writeP0E_tm0 (s : State) (v : Nibble) : (writeP0E s v).tm0 = s.tm0 := rfl
@[simp] theorem writeP0E_tm1 (s : State) (v : Nibble) : (writeP0E s v).tm1 = s.tm1 := rfl
@[simp] theorem writeP0E_tm1Out (s : State) (v : Nibble) : (writeP0E s v).tm1Out = s.tm1Out := rfl
@[simp] theorem writeP0E_btm (s : State) (v : Nibble) : (writeP0E s v).btm = s.btm := rfl
@[simp] theorem writeP0E_adc (s : State) (v : Nibble) : (writeP0E s v).adc = s.adc := rfl
@[simp] theorem writeP0E_sio (s : State) (v : Nibble) : (writeP0E s v).sio = s.sio := rfl
@[simp] theorem writeP0E_irq (s : State) (v : Nibble) : (writeP0E s v).irq = s.irq := rfl
@[simp] theorem writeP0E_ip (s : State) (v : Nibble) : (writeP0E s v).ip = s.ip := rfl
@[simp] theorem writeP0E_irqDly (s : State) (v : Nibble) : (writeP0E s v).irqDly = s.irqDly := rfl
@[simp] theorem writeP0E_iegmd (s : State) (v : Nibble) : (writeP0E s v).iegmd = s.iegmd := rfl
@[simp] theorem writeP0E_intPrev (s : State) (v : Nibble) : (writeP0E s v).intPrev = s.intPrev := rfl
@[simp] theorem writeP0E_prescaler (s : State) (v : Nibble) : (writeP0E s v).prescaler = s.prescaler := rfl
@[simp] theorem writeP0E_pins (s : State) (v : Nibble) : (writeP0E s v).pins = s.pins := rfl
@[simp] theorem writeP0E_inputs (s : State) (v : Nibble) : (writeP0E s v).inputs = s.inputs := rfl
@[simp] theorem writeP0E_rstSig (s : State) (v : Nibble) : (writeP0E s v).rstSig = s.rstSig := rfl
@[simp] theorem writeP0E_freeIdx (s : State) (v : Nibble) : (writeP0E s v).freeIdx = s.freeIdx := rfl

/-! ### dbfWrite -/

@[simp] theorem dbfWrite_cfg (s : State) (v : Word) : (dbfWrite s v).cfg = s.cfg := rfl
@[simp] theorem dbfWrite_rom (s : State) (v : Word) : (dbfWrite s v).rom = s.rom := rfl
@[simp] theorem dbfWrite_pc (s : State) (v : Word) : (dbfWrite s v).pc = s.pc := rfl
@[simp] theorem dbfWrite_sp (s : State) (v : Word) : (dbfWrite s v).sp = s.sp := rfl
@[simp] theorem dbfWrite_asr (s : State) (v : Word) : (dbfWrite s v).asr = s.asr := rfl
@[simp] theorem dbfWrite_intsk (s : State) (v : Word) : (dbfWrite s v).intsk = s.intsk := rfl
@[simp] theorem dbfWrite_ar (s : State) (v : Word) : (dbfWrite s v).ar = s.ar := rfl
@[simp] theorem dbfWrite_wr (s : State) (v : Word) : (dbfWrite s v).wr = s.wr := rfl
@[simp] theorem dbfWrite_ix (s : State) (v : Word) : (dbfWrite s v).ix = s.ix := rfl
@[simp] theorem dbfWrite_mpe (s : State) (v : Word) : (dbfWrite s v).mpe = s.mpe := rfl
@[simp] theorem dbfWrite_rpRow (s : State) (v : Word) : (dbfWrite s v).rpRow = s.rpRow := rfl
@[simp] theorem dbfWrite_psw (s : State) (v : Word) : (dbfWrite s v).psw = s.psw := rfl
@[simp] theorem dbfWrite_skip (s : State) (v : Word) : (dbfWrite s v).skip = s.skip := rfl
@[simp] theorem dbfWrite_inte (s : State) (v : Word) : (dbfWrite s v).inte = s.inte := rfl
@[simp] theorem dbfWrite_eiPending (s : State) (v : Word) : (dbfWrite s v).eiPending = s.eiPending := rfl
@[simp] theorem dbfWrite_mode (s : State) (v : Word) : (dbfWrite s v).mode = s.mode := rfl
@[simp] theorem dbfWrite_ports (s : State) (v : Word) : (dbfWrite s v).ports = s.ports := rfl
@[simp] theorem dbfWrite_tm0 (s : State) (v : Word) : (dbfWrite s v).tm0 = s.tm0 := rfl
@[simp] theorem dbfWrite_tm1 (s : State) (v : Word) : (dbfWrite s v).tm1 = s.tm1 := rfl
@[simp] theorem dbfWrite_tm1Out (s : State) (v : Word) : (dbfWrite s v).tm1Out = s.tm1Out := rfl
@[simp] theorem dbfWrite_btm (s : State) (v : Word) : (dbfWrite s v).btm = s.btm := rfl
@[simp] theorem dbfWrite_adc (s : State) (v : Word) : (dbfWrite s v).adc = s.adc := rfl
@[simp] theorem dbfWrite_sio (s : State) (v : Word) : (dbfWrite s v).sio = s.sio := rfl
@[simp] theorem dbfWrite_irq (s : State) (v : Word) : (dbfWrite s v).irq = s.irq := rfl
@[simp] theorem dbfWrite_ip (s : State) (v : Word) : (dbfWrite s v).ip = s.ip := rfl
@[simp] theorem dbfWrite_irqDly (s : State) (v : Word) : (dbfWrite s v).irqDly = s.irqDly := rfl
@[simp] theorem dbfWrite_iegmd (s : State) (v : Word) : (dbfWrite s v).iegmd = s.iegmd := rfl
@[simp] theorem dbfWrite_intPrev (s : State) (v : Word) : (dbfWrite s v).intPrev = s.intPrev := rfl
@[simp] theorem dbfWrite_prescaler (s : State) (v : Word) : (dbfWrite s v).prescaler = s.prescaler := rfl
@[simp] theorem dbfWrite_pins (s : State) (v : Word) : (dbfWrite s v).pins = s.pins := rfl
@[simp] theorem dbfWrite_inputs (s : State) (v : Word) : (dbfWrite s v).inputs = s.inputs := rfl
@[simp] theorem dbfWrite_rstSig (s : State) (v : Word) : (dbfWrite s v).rstSig = s.rstSig := rfl
@[simp] theorem dbfWrite_freeIdx (s : State) (v : Word) : (dbfWrite s v).freeIdx = s.freeIdx := rfl

/-! ### dbfWriteLow -/

@[simp] theorem dbfWriteLow_cfg (s : State) (v : Byte) : (dbfWriteLow s v).cfg = s.cfg := rfl
@[simp] theorem dbfWriteLow_rom (s : State) (v : Byte) : (dbfWriteLow s v).rom = s.rom := rfl
@[simp] theorem dbfWriteLow_pc (s : State) (v : Byte) : (dbfWriteLow s v).pc = s.pc := rfl
@[simp] theorem dbfWriteLow_sp (s : State) (v : Byte) : (dbfWriteLow s v).sp = s.sp := rfl
@[simp] theorem dbfWriteLow_asr (s : State) (v : Byte) : (dbfWriteLow s v).asr = s.asr := rfl
@[simp] theorem dbfWriteLow_intsk (s : State) (v : Byte) : (dbfWriteLow s v).intsk = s.intsk := rfl
@[simp] theorem dbfWriteLow_ar (s : State) (v : Byte) : (dbfWriteLow s v).ar = s.ar := rfl
@[simp] theorem dbfWriteLow_wr (s : State) (v : Byte) : (dbfWriteLow s v).wr = s.wr := rfl
@[simp] theorem dbfWriteLow_ix (s : State) (v : Byte) : (dbfWriteLow s v).ix = s.ix := rfl
@[simp] theorem dbfWriteLow_mpe (s : State) (v : Byte) : (dbfWriteLow s v).mpe = s.mpe := rfl
@[simp] theorem dbfWriteLow_rpRow (s : State) (v : Byte) : (dbfWriteLow s v).rpRow = s.rpRow := rfl
@[simp] theorem dbfWriteLow_psw (s : State) (v : Byte) : (dbfWriteLow s v).psw = s.psw := rfl
@[simp] theorem dbfWriteLow_skip (s : State) (v : Byte) : (dbfWriteLow s v).skip = s.skip := rfl
@[simp] theorem dbfWriteLow_inte (s : State) (v : Byte) : (dbfWriteLow s v).inte = s.inte := rfl
@[simp] theorem dbfWriteLow_eiPending (s : State) (v : Byte) : (dbfWriteLow s v).eiPending = s.eiPending := rfl
@[simp] theorem dbfWriteLow_mode (s : State) (v : Byte) : (dbfWriteLow s v).mode = s.mode := rfl
@[simp] theorem dbfWriteLow_ports (s : State) (v : Byte) : (dbfWriteLow s v).ports = s.ports := rfl
@[simp] theorem dbfWriteLow_tm0 (s : State) (v : Byte) : (dbfWriteLow s v).tm0 = s.tm0 := rfl
@[simp] theorem dbfWriteLow_tm1 (s : State) (v : Byte) : (dbfWriteLow s v).tm1 = s.tm1 := rfl
@[simp] theorem dbfWriteLow_tm1Out (s : State) (v : Byte) : (dbfWriteLow s v).tm1Out = s.tm1Out := rfl
@[simp] theorem dbfWriteLow_btm (s : State) (v : Byte) : (dbfWriteLow s v).btm = s.btm := rfl
@[simp] theorem dbfWriteLow_adc (s : State) (v : Byte) : (dbfWriteLow s v).adc = s.adc := rfl
@[simp] theorem dbfWriteLow_sio (s : State) (v : Byte) : (dbfWriteLow s v).sio = s.sio := rfl
@[simp] theorem dbfWriteLow_irq (s : State) (v : Byte) : (dbfWriteLow s v).irq = s.irq := rfl
@[simp] theorem dbfWriteLow_ip (s : State) (v : Byte) : (dbfWriteLow s v).ip = s.ip := rfl
@[simp] theorem dbfWriteLow_irqDly (s : State) (v : Byte) : (dbfWriteLow s v).irqDly = s.irqDly := rfl
@[simp] theorem dbfWriteLow_iegmd (s : State) (v : Byte) : (dbfWriteLow s v).iegmd = s.iegmd := rfl
@[simp] theorem dbfWriteLow_intPrev (s : State) (v : Byte) : (dbfWriteLow s v).intPrev = s.intPrev := rfl
@[simp] theorem dbfWriteLow_prescaler (s : State) (v : Byte) : (dbfWriteLow s v).prescaler = s.prescaler := rfl
@[simp] theorem dbfWriteLow_pins (s : State) (v : Byte) : (dbfWriteLow s v).pins = s.pins := rfl
@[simp] theorem dbfWriteLow_inputs (s : State) (v : Byte) : (dbfWriteLow s v).inputs = s.inputs := rfl
@[simp] theorem dbfWriteLow_rstSig (s : State) (v : Byte) : (dbfWriteLow s v).rstSig = s.rstSig := rfl
@[simp] theorem dbfWriteLow_freeIdx (s : State) (v : Byte) : (dbfWriteLow s v).freeIdx = s.freeIdx := rfl

/-! ### clearCmp -/

@[simp] theorem clearCmp_cfg (s : State) : (clearCmp s).cfg = s.cfg := rfl
@[simp] theorem clearCmp_rom (s : State) : (clearCmp s).rom = s.rom := rfl
@[simp] theorem clearCmp_ram (s : State) : (clearCmp s).ram = s.ram := rfl
@[simp] theorem clearCmp_pc (s : State) : (clearCmp s).pc = s.pc := rfl
@[simp] theorem clearCmp_sp (s : State) : (clearCmp s).sp = s.sp := rfl
@[simp] theorem clearCmp_asr (s : State) : (clearCmp s).asr = s.asr := rfl
@[simp] theorem clearCmp_intsk (s : State) : (clearCmp s).intsk = s.intsk := rfl
@[simp] theorem clearCmp_ar (s : State) : (clearCmp s).ar = s.ar := rfl
@[simp] theorem clearCmp_wr (s : State) : (clearCmp s).wr = s.wr := rfl
@[simp] theorem clearCmp_ix (s : State) : (clearCmp s).ix = s.ix := rfl
@[simp] theorem clearCmp_mpe (s : State) : (clearCmp s).mpe = s.mpe := rfl
@[simp] theorem clearCmp_rpRow (s : State) : (clearCmp s).rpRow = s.rpRow := rfl
@[simp] theorem clearCmp_skip (s : State) : (clearCmp s).skip = s.skip := rfl
@[simp] theorem clearCmp_inte (s : State) : (clearCmp s).inte = s.inte := rfl
@[simp] theorem clearCmp_eiPending (s : State) : (clearCmp s).eiPending = s.eiPending := rfl
@[simp] theorem clearCmp_mode (s : State) : (clearCmp s).mode = s.mode := rfl
@[simp] theorem clearCmp_ports (s : State) : (clearCmp s).ports = s.ports := rfl
@[simp] theorem clearCmp_tm0 (s : State) : (clearCmp s).tm0 = s.tm0 := rfl
@[simp] theorem clearCmp_tm1 (s : State) : (clearCmp s).tm1 = s.tm1 := rfl
@[simp] theorem clearCmp_tm1Out (s : State) : (clearCmp s).tm1Out = s.tm1Out := rfl
@[simp] theorem clearCmp_btm (s : State) : (clearCmp s).btm = s.btm := rfl
@[simp] theorem clearCmp_adc (s : State) : (clearCmp s).adc = s.adc := rfl
@[simp] theorem clearCmp_sio (s : State) : (clearCmp s).sio = s.sio := rfl
@[simp] theorem clearCmp_irq (s : State) : (clearCmp s).irq = s.irq := rfl
@[simp] theorem clearCmp_ip (s : State) : (clearCmp s).ip = s.ip := rfl
@[simp] theorem clearCmp_irqDly (s : State) : (clearCmp s).irqDly = s.irqDly := rfl
@[simp] theorem clearCmp_iegmd (s : State) : (clearCmp s).iegmd = s.iegmd := rfl
@[simp] theorem clearCmp_intPrev (s : State) : (clearCmp s).intPrev = s.intPrev := rfl
@[simp] theorem clearCmp_prescaler (s : State) : (clearCmp s).prescaler = s.prescaler := rfl
@[simp] theorem clearCmp_pins (s : State) : (clearCmp s).pins = s.pins := rfl
@[simp] theorem clearCmp_inputs (s : State) : (clearCmp s).inputs = s.inputs := rfl
@[simp] theorem clearCmp_rstSig (s : State) : (clearCmp s).rstSig = s.rstSig := rfl
@[simp] theorem clearCmp_freeIdx (s : State) : (clearCmp s).freeIdx = s.freeIdx := rfl

/-! ### intCycle -/

@[simp] theorem intCycle_cfg (s : State) : (intCycle s).cfg = s.cfg := rfl
@[simp] theorem intCycle_rom (s : State) : (intCycle s).rom = s.rom := rfl
@[simp] theorem intCycle_ram (s : State) : (intCycle s).ram = s.ram := rfl
@[simp] theorem intCycle_pc (s : State) : (intCycle s).pc = s.pc := rfl
@[simp] theorem intCycle_sp (s : State) : (intCycle s).sp = s.sp := rfl
@[simp] theorem intCycle_asr (s : State) : (intCycle s).asr = s.asr := rfl
@[simp] theorem intCycle_intsk (s : State) : (intCycle s).intsk = s.intsk := rfl
@[simp] theorem intCycle_ar (s : State) : (intCycle s).ar = s.ar := rfl
@[simp] theorem intCycle_wr (s : State) : (intCycle s).wr = s.wr := rfl
@[simp] theorem intCycle_ix (s : State) : (intCycle s).ix = s.ix := rfl
@[simp] theorem intCycle_mpe (s : State) : (intCycle s).mpe = s.mpe := rfl
@[simp] theorem intCycle_rpRow (s : State) : (intCycle s).rpRow = s.rpRow := rfl
@[simp] theorem intCycle_psw (s : State) : (intCycle s).psw = s.psw := rfl
@[simp] theorem intCycle_skip (s : State) : (intCycle s).skip = s.skip := rfl
@[simp] theorem intCycle_inte (s : State) : (intCycle s).inte = s.inte := rfl
@[simp] theorem intCycle_eiPending (s : State) : (intCycle s).eiPending = s.eiPending := rfl
@[simp] theorem intCycle_mode (s : State) : (intCycle s).mode = s.mode := rfl
@[simp] theorem intCycle_ports (s : State) : (intCycle s).ports = s.ports := rfl
@[simp] theorem intCycle_tm0 (s : State) : (intCycle s).tm0 = s.tm0 := rfl
@[simp] theorem intCycle_tm1 (s : State) : (intCycle s).tm1 = s.tm1 := rfl
@[simp] theorem intCycle_tm1Out (s : State) : (intCycle s).tm1Out = s.tm1Out := rfl
@[simp] theorem intCycle_btm (s : State) : (intCycle s).btm = s.btm := rfl
@[simp] theorem intCycle_adc (s : State) : (intCycle s).adc = s.adc := rfl
@[simp] theorem intCycle_sio (s : State) : (intCycle s).sio = s.sio := rfl
@[simp] theorem intCycle_ip (s : State) : (intCycle s).ip = s.ip := rfl
@[simp] theorem intCycle_irqDly (s : State) : (intCycle s).irqDly = s.irqDly := rfl
@[simp] theorem intCycle_iegmd (s : State) : (intCycle s).iegmd = s.iegmd := rfl
@[simp] theorem intCycle_prescaler (s : State) : (intCycle s).prescaler = s.prescaler := rfl
@[simp] theorem intCycle_pins (s : State) : (intCycle s).pins = s.pins := rfl
@[simp] theorem intCycle_inputs (s : State) : (intCycle s).inputs = s.inputs := rfl
@[simp] theorem intCycle_rstSig (s : State) : (intCycle s).rstSig = s.rstSig := rfl
@[simp] theorem intCycle_freeIdx (s : State) : (intCycle s).freeIdx = s.freeIdx := rfl

/-! ### prescalerCycle -/

@[simp] theorem prescalerCycle_cfg (s : State) : (prescalerCycle s).cfg = s.cfg := rfl
@[simp] theorem prescalerCycle_rom (s : State) : (prescalerCycle s).rom = s.rom := rfl
@[simp] theorem prescalerCycle_ram (s : State) : (prescalerCycle s).ram = s.ram := rfl
@[simp] theorem prescalerCycle_pc (s : State) : (prescalerCycle s).pc = s.pc := rfl
@[simp] theorem prescalerCycle_sp (s : State) : (prescalerCycle s).sp = s.sp := rfl
@[simp] theorem prescalerCycle_asr (s : State) : (prescalerCycle s).asr = s.asr := rfl
@[simp] theorem prescalerCycle_intsk (s : State) : (prescalerCycle s).intsk = s.intsk := rfl
@[simp] theorem prescalerCycle_ar (s : State) : (prescalerCycle s).ar = s.ar := rfl
@[simp] theorem prescalerCycle_wr (s : State) : (prescalerCycle s).wr = s.wr := rfl
@[simp] theorem prescalerCycle_ix (s : State) : (prescalerCycle s).ix = s.ix := rfl
@[simp] theorem prescalerCycle_mpe (s : State) : (prescalerCycle s).mpe = s.mpe := rfl
@[simp] theorem prescalerCycle_rpRow (s : State) : (prescalerCycle s).rpRow = s.rpRow := rfl
@[simp] theorem prescalerCycle_psw (s : State) : (prescalerCycle s).psw = s.psw := rfl
@[simp] theorem prescalerCycle_skip (s : State) : (prescalerCycle s).skip = s.skip := rfl
@[simp] theorem prescalerCycle_inte (s : State) : (prescalerCycle s).inte = s.inte := rfl
@[simp] theorem prescalerCycle_eiPending (s : State) : (prescalerCycle s).eiPending = s.eiPending := rfl
@[simp] theorem prescalerCycle_mode (s : State) : (prescalerCycle s).mode = s.mode := rfl
@[simp] theorem prescalerCycle_ports (s : State) : (prescalerCycle s).ports = s.ports := rfl
@[simp] theorem prescalerCycle_tm0 (s : State) : (prescalerCycle s).tm0 = s.tm0 := rfl
@[simp] theorem prescalerCycle_tm1 (s : State) : (prescalerCycle s).tm1 = s.tm1 := rfl
@[simp] theorem prescalerCycle_tm1Out (s : State) : (prescalerCycle s).tm1Out = s.tm1Out := rfl
@[simp] theorem prescalerCycle_btm (s : State) : (prescalerCycle s).btm = s.btm := rfl
@[simp] theorem prescalerCycle_adc (s : State) : (prescalerCycle s).adc = s.adc := rfl
@[simp] theorem prescalerCycle_sio (s : State) : (prescalerCycle s).sio = s.sio := rfl
@[simp] theorem prescalerCycle_irq (s : State) : (prescalerCycle s).irq = s.irq := rfl
@[simp] theorem prescalerCycle_ip (s : State) : (prescalerCycle s).ip = s.ip := rfl
@[simp] theorem prescalerCycle_irqDly (s : State) : (prescalerCycle s).irqDly = s.irqDly := rfl
@[simp] theorem prescalerCycle_iegmd (s : State) : (prescalerCycle s).iegmd = s.iegmd := rfl
@[simp] theorem prescalerCycle_intPrev (s : State) : (prescalerCycle s).intPrev = s.intPrev := rfl
@[simp] theorem prescalerCycle_pins (s : State) : (prescalerCycle s).pins = s.pins := rfl
@[simp] theorem prescalerCycle_inputs (s : State) : (prescalerCycle s).inputs = s.inputs := rfl
@[simp] theorem prescalerCycle_rstSig (s : State) : (prescalerCycle s).rstSig = s.rstSig := rfl
@[simp] theorem prescalerCycle_freeIdx (s : State) : (prescalerCycle s).freeIdx = s.freeIdx := rfl

/-! ### afterFetch -/

@[simp] theorem afterFetch_cfg (s : State) : (afterFetch s).cfg = s.cfg := rfl
@[simp] theorem afterFetch_rom (s : State) : (afterFetch s).rom = s.rom := rfl
@[simp] theorem afterFetch_ram (s : State) : (afterFetch s).ram = s.ram := rfl
@[simp] theorem afterFetch_sp (s : State) : (afterFetch s).sp = s.sp := rfl
@[simp] theorem afterFetch_asr (s : State) : (afterFetch s).asr = s.asr := rfl
@[simp] theorem afterFetch_intsk (s : State) : (afterFetch s).intsk = s.intsk := rfl
@[simp] theorem afterFetch_ar (s : State) : (afterFetch s).ar = s.ar := rfl
@[simp] theorem afterFetch_wr (s : State) : (afterFetch s).wr = s.wr := rfl
@[simp] theorem afterFetch_ix (s : State) : (afterFetch s).ix = s.ix := rfl
@[simp] theorem afterFetch_mpe (s : State) : (afterFetch s).mpe = s.mpe := rfl
@[simp] theorem afterFetch_rpRow (s : State) : (afterFetch s).rpRow = s.rpRow := rfl
@[simp] theorem afterFetch_psw (s : State) : (afterFetch s).psw = s.psw := rfl
@[simp] theorem afterFetch_skip (s : State) : (afterFetch s).skip = s.skip := rfl
@[simp] theorem afterFetch_inte (s : State) : (afterFetch s).inte = s.inte := rfl
@[simp] theorem afterFetch_eiPending (s : State) : (afterFetch s).eiPending = s.eiPending := rfl
@[simp] theorem afterFetch_mode (s : State) : (afterFetch s).mode = s.mode := rfl
@[simp] theorem afterFetch_ports (s : State) : (afterFetch s).ports = s.ports := rfl
@[simp] theorem afterFetch_tm0 (s : State) : (afterFetch s).tm0 = s.tm0 := rfl
@[simp] theorem afterFetch_tm1 (s : State) : (afterFetch s).tm1 = s.tm1 := rfl
@[simp] theorem afterFetch_tm1Out (s : State) : (afterFetch s).tm1Out = s.tm1Out := rfl
@[simp] theorem afterFetch_btm (s : State) : (afterFetch s).btm = s.btm := rfl
@[simp] theorem afterFetch_adc (s : State) : (afterFetch s).adc = s.adc := rfl
@[simp] theorem afterFetch_sio (s : State) : (afterFetch s).sio = s.sio := rfl
@[simp] theorem afterFetch_irq (s : State) : (afterFetch s).irq = s.irq := rfl
@[simp] theorem afterFetch_ip (s : State) : (afterFetch s).ip = s.ip := rfl
@[simp] theorem afterFetch_irqDly (s : State) : (afterFetch s).irqDly = s.irqDly := rfl
@[simp] theorem afterFetch_iegmd (s : State) : (afterFetch s).iegmd = s.iegmd := rfl
@[simp] theorem afterFetch_intPrev (s : State) : (afterFetch s).intPrev = s.intPrev := rfl
@[simp] theorem afterFetch_prescaler (s : State) : (afterFetch s).prescaler = s.prescaler := rfl
@[simp] theorem afterFetch_pins (s : State) : (afterFetch s).pins = s.pins := rfl
@[simp] theorem afterFetch_inputs (s : State) : (afterFetch s).inputs = s.inputs := rfl
@[simp] theorem afterFetch_rstSig (s : State) : (afterFetch s).rstSig = s.rstSig := rfl
@[simp] theorem afterFetch_freeIdx (s : State) : (afterFetch s).freeIdx = s.freeIdx := rfl

/-! ### clearRstSig -/

@[simp] theorem clearRstSig_cfg (s : State) : (clearRstSig s).cfg = s.cfg := rfl
@[simp] theorem clearRstSig_rom (s : State) : (clearRstSig s).rom = s.rom := rfl
@[simp] theorem clearRstSig_ram (s : State) : (clearRstSig s).ram = s.ram := rfl
@[simp] theorem clearRstSig_pc (s : State) : (clearRstSig s).pc = s.pc := rfl
@[simp] theorem clearRstSig_sp (s : State) : (clearRstSig s).sp = s.sp := rfl
@[simp] theorem clearRstSig_asr (s : State) : (clearRstSig s).asr = s.asr := rfl
@[simp] theorem clearRstSig_intsk (s : State) : (clearRstSig s).intsk = s.intsk := rfl
@[simp] theorem clearRstSig_ar (s : State) : (clearRstSig s).ar = s.ar := rfl
@[simp] theorem clearRstSig_wr (s : State) : (clearRstSig s).wr = s.wr := rfl
@[simp] theorem clearRstSig_ix (s : State) : (clearRstSig s).ix = s.ix := rfl
@[simp] theorem clearRstSig_mpe (s : State) : (clearRstSig s).mpe = s.mpe := rfl
@[simp] theorem clearRstSig_rpRow (s : State) : (clearRstSig s).rpRow = s.rpRow := rfl
@[simp] theorem clearRstSig_psw (s : State) : (clearRstSig s).psw = s.psw := rfl
@[simp] theorem clearRstSig_skip (s : State) : (clearRstSig s).skip = s.skip := rfl
@[simp] theorem clearRstSig_inte (s : State) : (clearRstSig s).inte = s.inte := rfl
@[simp] theorem clearRstSig_eiPending (s : State) : (clearRstSig s).eiPending = s.eiPending := rfl
@[simp] theorem clearRstSig_mode (s : State) : (clearRstSig s).mode = s.mode := rfl
@[simp] theorem clearRstSig_ports (s : State) : (clearRstSig s).ports = s.ports := rfl
@[simp] theorem clearRstSig_tm0 (s : State) : (clearRstSig s).tm0 = s.tm0 := rfl
@[simp] theorem clearRstSig_tm1 (s : State) : (clearRstSig s).tm1 = s.tm1 := rfl
@[simp] theorem clearRstSig_tm1Out (s : State) : (clearRstSig s).tm1Out = s.tm1Out := rfl
@[simp] theorem clearRstSig_btm (s : State) : (clearRstSig s).btm = s.btm := rfl
@[simp] theorem clearRstSig_adc (s : State) : (clearRstSig s).adc = s.adc := rfl
@[simp] theorem clearRstSig_sio (s : State) : (clearRstSig s).sio = s.sio := rfl
@[simp] theorem clearRstSig_irq (s : State) : (clearRstSig s).irq = s.irq := rfl
@[simp] theorem clearRstSig_ip (s : State) : (clearRstSig s).ip = s.ip := rfl
@[simp] theorem clearRstSig_irqDly (s : State) : (clearRstSig s).irqDly = s.irqDly := rfl
@[simp] theorem clearRstSig_iegmd (s : State) : (clearRstSig s).iegmd = s.iegmd := rfl
@[simp] theorem clearRstSig_intPrev (s : State) : (clearRstSig s).intPrev = s.intPrev := rfl
@[simp] theorem clearRstSig_prescaler (s : State) : (clearRstSig s).prescaler = s.prescaler := rfl
@[simp] theorem clearRstSig_pins (s : State) : (clearRstSig s).pins = s.pins := rfl
@[simp] theorem clearRstSig_inputs (s : State) : (clearRstSig s).inputs = s.inputs := rfl
@[simp] theorem clearRstSig_freeIdx (s : State) : (clearRstSig s).freeIdx = s.freeIdx := rfl

/-! ### sioFall -/

@[simp] theorem sioFall_cfg (s : State) : (sioFall s).cfg = s.cfg := rfl
@[simp] theorem sioFall_rom (s : State) : (sioFall s).rom = s.rom := rfl
@[simp] theorem sioFall_ram (s : State) : (sioFall s).ram = s.ram := rfl
@[simp] theorem sioFall_pc (s : State) : (sioFall s).pc = s.pc := rfl
@[simp] theorem sioFall_sp (s : State) : (sioFall s).sp = s.sp := rfl
@[simp] theorem sioFall_asr (s : State) : (sioFall s).asr = s.asr := rfl
@[simp] theorem sioFall_intsk (s : State) : (sioFall s).intsk = s.intsk := rfl
@[simp] theorem sioFall_ar (s : State) : (sioFall s).ar = s.ar := rfl
@[simp] theorem sioFall_wr (s : State) : (sioFall s).wr = s.wr := rfl
@[simp] theorem sioFall_ix (s : State) : (sioFall s).ix = s.ix := rfl
@[simp] theorem sioFall_mpe (s : State) : (sioFall s).mpe = s.mpe := rfl
@[simp] theorem sioFall_rpRow (s : State) : (sioFall s).rpRow = s.rpRow := rfl
@[simp] theorem sioFall_psw (s : State) : (sioFall s).psw = s.psw := rfl
@[simp] theorem sioFall_skip (s : State) : (sioFall s).skip = s.skip := rfl
@[simp] theorem sioFall_inte (s : State) : (sioFall s).inte = s.inte := rfl
@[simp] theorem sioFall_eiPending (s : State) : (sioFall s).eiPending = s.eiPending := rfl
@[simp] theorem sioFall_mode (s : State) : (sioFall s).mode = s.mode := rfl
@[simp] theorem sioFall_ports (s : State) : (sioFall s).ports = s.ports := rfl
@[simp] theorem sioFall_tm0 (s : State) : (sioFall s).tm0 = s.tm0 := rfl
@[simp] theorem sioFall_tm1 (s : State) : (sioFall s).tm1 = s.tm1 := rfl
@[simp] theorem sioFall_tm1Out (s : State) : (sioFall s).tm1Out = s.tm1Out := rfl
@[simp] theorem sioFall_btm (s : State) : (sioFall s).btm = s.btm := rfl
@[simp] theorem sioFall_adc (s : State) : (sioFall s).adc = s.adc := rfl
@[simp] theorem sioFall_irq (s : State) : (sioFall s).irq = s.irq := rfl
@[simp] theorem sioFall_ip (s : State) : (sioFall s).ip = s.ip := rfl
@[simp] theorem sioFall_irqDly (s : State) : (sioFall s).irqDly = s.irqDly := rfl
@[simp] theorem sioFall_iegmd (s : State) : (sioFall s).iegmd = s.iegmd := rfl
@[simp] theorem sioFall_intPrev (s : State) : (sioFall s).intPrev = s.intPrev := rfl
@[simp] theorem sioFall_prescaler (s : State) : (sioFall s).prescaler = s.prescaler := rfl
@[simp] theorem sioFall_pins (s : State) : (sioFall s).pins = s.pins := rfl
@[simp] theorem sioFall_inputs (s : State) : (sioFall s).inputs = s.inputs := rfl
@[simp] theorem sioFall_rstSig (s : State) : (sioFall s).rstSig = s.rstSig := rfl
@[simp] theorem sioFall_freeIdx (s : State) : (sioFall s).freeIdx = s.freeIdx := rfl

@[simp] theorem setPc_pc (s : State) (v : PAddr) : (setPc s v).pc = v &&& s.cfg.part.addrMask := rfl
@[simp] theorem setAr_ar (s : State) (v : PAddr) : (setAr s v).ar = v &&& s.cfg.part.addrMask := rfl
@[simp] theorem afterFetch_pc (s : State) : (afterFetch s).pc = nextPc s := rfl
@[simp] theorem clearRstSig_rstSig (s : State) : (clearRstSig s).rstSig = false := rfl
@[simp] theorem prescalerCycle_prescaler (s : State) : (prescalerCycle s).prescaler = s.prescaler + 1 := rfl
@[simp] theorem intCycle_intPrev (s : State) : (intCycle s).intPrev = pinInt s := rfl

/-! ### memWrite: the fields no data-memory write reaches -/

@[simp] theorem memWrite_cfg (s : State) (a : DAddr) (v : Nibble) : (memWrite s a v).cfg = s.cfg := by
  unfold memWrite; split <;> rfl
@[simp] theorem memWrite_rom (s : State) (a : DAddr) (v : Nibble) : (memWrite s a v).rom = s.rom := by
  unfold memWrite; split <;> rfl
@[simp] theorem memWrite_pc (s : State) (a : DAddr) (v : Nibble) : (memWrite s a v).pc = s.pc := by
  unfold memWrite; split <;> rfl
@[simp] theorem memWrite_sp (s : State) (a : DAddr) (v : Nibble) : (memWrite s a v).sp = s.sp := by
  unfold memWrite; split <;> rfl
@[simp] theorem memWrite_asr (s : State) (a : DAddr) (v : Nibble) : (memWrite s a v).asr = s.asr := by
  unfold memWrite; split <;> rfl
@[simp] theorem memWrite_intsk (s : State) (a : DAddr) (v : Nibble) : (memWrite s a v).intsk = s.intsk := by
  unfold memWrite; split <;> rfl
@[simp] theorem memWrite_skip (s : State) (a : DAddr) (v : Nibble) : (memWrite s a v).skip = s.skip := by
  unfold memWrite; split <;> rfl
@[simp] theorem memWrite_inte (s : State) (a : DAddr) (v : Nibble) : (memWrite s a v).inte = s.inte := by
  unfold memWrite; split <;> rfl
@[simp] theorem memWrite_eiPending (s : State) (a : DAddr) (v : Nibble) : (memWrite s a v).eiPending = s.eiPending := by
  unfold memWrite; split <;> rfl
@[simp] theorem memWrite_mode (s : State) (a : DAddr) (v : Nibble) : (memWrite s a v).mode = s.mode := by
  unfold memWrite; split <;> rfl
@[simp] theorem memWrite_tm0 (s : State) (a : DAddr) (v : Nibble) : (memWrite s a v).tm0 = s.tm0 := by
  unfold memWrite; split <;> rfl
@[simp] theorem memWrite_tm1 (s : State) (a : DAddr) (v : Nibble) : (memWrite s a v).tm1 = s.tm1 := by
  unfold memWrite; split <;> rfl
@[simp] theorem memWrite_tm1Out (s : State) (a : DAddr) (v : Nibble) : (memWrite s a v).tm1Out = s.tm1Out := by
  unfold memWrite; split <;> rfl
@[simp] theorem memWrite_btm (s : State) (a : DAddr) (v : Nibble) : (memWrite s a v).btm = s.btm := by
  unfold memWrite; split <;> rfl
@[simp] theorem memWrite_adc (s : State) (a : DAddr) (v : Nibble) : (memWrite s a v).adc = s.adc := by
  unfold memWrite; split <;> rfl
@[simp] theorem memWrite_sio (s : State) (a : DAddr) (v : Nibble) : (memWrite s a v).sio = s.sio := by
  unfold memWrite; split <;> rfl
@[simp] theorem memWrite_irq (s : State) (a : DAddr) (v : Nibble) : (memWrite s a v).irq = s.irq := by
  unfold memWrite; split <;> rfl
@[simp] theorem memWrite_ip (s : State) (a : DAddr) (v : Nibble) : (memWrite s a v).ip = s.ip := by
  unfold memWrite; split <;> rfl
@[simp] theorem memWrite_irqDly (s : State) (a : DAddr) (v : Nibble) : (memWrite s a v).irqDly = s.irqDly := by
  unfold memWrite; split <;> rfl
@[simp] theorem memWrite_iegmd (s : State) (a : DAddr) (v : Nibble) : (memWrite s a v).iegmd = s.iegmd := by
  unfold memWrite; split <;> rfl
@[simp] theorem memWrite_intPrev (s : State) (a : DAddr) (v : Nibble) : (memWrite s a v).intPrev = s.intPrev := by
  unfold memWrite; split <;> rfl
@[simp] theorem memWrite_prescaler (s : State) (a : DAddr) (v : Nibble) : (memWrite s a v).prescaler = s.prescaler := by
  unfold memWrite; split <;> rfl
@[simp] theorem memWrite_pins (s : State) (a : DAddr) (v : Nibble) : (memWrite s a v).pins = s.pins := by
  unfold memWrite; split <;> rfl
@[simp] theorem memWrite_inputs (s : State) (a : DAddr) (v : Nibble) : (memWrite s a v).inputs = s.inputs := by
  unfold memWrite; split <;> rfl
@[simp] theorem memWrite_rstSig (s : State) (a : DAddr) (v : Nibble) : (memWrite s a v).rstSig = s.rstSig := by
  unfold memWrite; split <;> rfl
@[simp] theorem memWrite_freeIdx (s : State) (a : DAddr) (v : Nibble) : (memWrite s a v).freeIdx = s.freeIdx := by
  unfold memWrite; split <;> rfl

end Sys2Proof.Machine
end

