-- ==== Sys2Proof/Laws/Ops.lean ====
section
/-! SUPPORT. One lemma per shared operation that says once what it can do. -/

namespace Sys2Proof.Machine

/-! ### The data-memory map -/

/-- The one address of every entry of the map but RAM. -/
def DLoc.addr (l : DLoc) : DAddr :=
  match l with
  | .ram => 0
  | .p0e => 0x6E
  | .p0f => 0x6F
  | .p0a => 0x70
  | .p0b => 0x71
  | .p0c => 0x72
  | .p0d => 0x73
  | .ar3 => 0x74
  | .ar2 => 0x75
  | .ar1 => 0x76
  | .ar0 => 0x77
  | .wr => 0x78
  | .bank => 0x79
  | .ixh => 0x7A
  | .ixm => 0x7B
  | .ixl => 0x7C
  | .rph => 0x7D
  | .rpl => 0x7E
  | .psw => 0x7F

theorem dloc_addr : ∀ a : DAddr, dloc a = .ram ∨ (dloc a).addr = a := by decide

/-- Only RAM has more than one address. -/
theorem dloc_inj (a b : DAddr) (h : dloc a = dloc b) (hr : dloc a ≠ .ram) : a = b := by
  have ha := (dloc_addr a).resolve_left hr
  have hb := (dloc_addr b).resolve_left (h ▸ hr)
  rw [← ha, ← hb, h]

theorem dloc_ram_iff : ∀ a : DAddr, dloc a = .ram ↔ a.toNat < 0x6E := by decide

theorem dloc_notPort : ∀ a : DAddr, a.toNat < 0x6E ∨ 0x73 < a.toNat →
    dloc a ≠ .p0a ∧ dloc a ≠ .p0b ∧ dloc a ≠ .p0c ∧ dloc a ≠ .p0d ∧ dloc a ≠ .p0e ∧ dloc a ≠ .p0f := by decide

theorem dloc_p0f : ∀ a : DAddr, dloc a = .p0f ↔ a = 0x6F := by decide

/-! ### Reading after a data-memory write -/

/-- Nibbles equal in their four bits are equal. -/
theorem nibble_ext (a b : Nibble) (h0 : a.getLsbD 0 = b.getLsbD 0) (h1 : a.getLsbD 1 = b.getLsbD 1)
    (h2 : a.getLsbD 2 = b.getLsbD 2) (h3 : a.getLsbD 3 = b.getLsbD 3) : a = b := by
  apply BitVec.eq_of_getLsbD_eq
  intro i hi
  have : i = 0 ∨ i = 1 ∨ i = 2 ∨ i = 3 := by omega
  rcases this with rfl | rfl | rfl | rfl <;> assumption

/-- The parts of AR after a write to AR2. -/
theorem ar2_parts (p : Part) (ar : PAddr) (v : Nibble) :
    ((v ++ ar.extractLsb' 0 8 : PAddr) &&& p.addrMask).extractLsb' 0 4 = ar.extractLsb' 0 4 ∧
    ((v ++ ar.extractLsb' 0 8 : PAddr) &&& p.addrMask).extractLsb' 4 4 = ar.extractLsb' 4 4 ∧
    ((v ++ ar.extractLsb' 0 8 : PAddr) &&& p.addrMask).extractLsb' 8 4 = v &&& p.addrMask.extractLsb' 8 4 := by
  cases p <;> refine ⟨nibble_ext _ _ ?_ ?_ ?_ ?_, nibble_ext _ _ ?_ ?_ ?_ ?_, nibble_ext _ _ ?_ ?_ ?_ ?_⟩ <;>
    simp only [BitVec.getLsbD_append, BitVec.getLsbD_extractLsb', BitVec.getLsbD_and, Part.addrMask] <;> simp

/-- The parts of AR after a write to AR1. -/
theorem ar1_parts (ar : PAddr) (v : Nibble) :
    (ar.extractLsb' 8 4 ++ v ++ ar.extractLsb' 0 4 : PAddr).extractLsb' 0 4 = ar.extractLsb' 0 4 ∧
    (ar.extractLsb' 8 4 ++ v ++ ar.extractLsb' 0 4 : PAddr).extractLsb' 4 4 = v ∧
    (ar.extractLsb' 8 4 ++ v ++ ar.extractLsb' 0 4 : PAddr).extractLsb' 8 4 = ar.extractLsb' 8 4 := by
  refine ⟨nibble_ext _ _ ?_ ?_ ?_ ?_, nibble_ext _ _ ?_ ?_ ?_ ?_, nibble_ext _ _ ?_ ?_ ?_ ?_⟩ <;>
    simp only [BitVec.getLsbD_append, BitVec.getLsbD_extractLsb'] <;> simp

/-- The parts of AR after a write to AR0. -/
theorem ar0_parts (ar : PAddr) (v : Nibble) :
    (ar.extractLsb' 4 8 ++ v : PAddr).extractLsb' 0 4 = v ∧
    (ar.extractLsb' 4 8 ++ v : PAddr).extractLsb' 4 4 = ar.extractLsb' 4 4 ∧
    (ar.extractLsb' 4 8 ++ v : PAddr).extractLsb' 8 4 = ar.extractLsb' 8 4 := by
  refine ⟨nibble_ext _ _ ?_ ?_ ?_ ?_, nibble_ext _ _ ?_ ?_ ?_ ?_, nibble_ext _ _ ?_ ?_ ?_ ?_⟩ <;>
    simp only [BitVec.getLsbD_append, BitVec.getLsbD_extractLsb'] <;> simp

/-- The parts of IX after a write to IXM or IXL. -/
theorem ix_parts (ix : BitVec 7) (v : Nibble) :
    (v.extractLsb' 0 3 ++ ix.extractLsb' 0 4 : BitVec 7).extractLsb' 0 4 = ix.extractLsb' 0 4 ∧
    (ix.extractLsb' 4 3 ++ v : BitVec 7).extractLsb' 4 3 = ix.extractLsb' 4 3 ∧
    (v.extractLsb' 0 3 ++ ix.extractLsb' 0 4 : BitVec 7).extractLsb' 4 3 = v.extractLsb' 0 3 ∧
    (ix.extractLsb' 4 3 ++ v : BitVec 7).extractLsb' 0 4 = v := by
  refine ⟨?_, ?_, ?_, ?_⟩ <;> (apply BitVec.eq_of_getLsbD_eq; intro i hi) <;>
    (have : i = 0 ∨ i = 1 ∨ i = 2 ∨ i = 3 := by omega) <;>
    rcases this with rfl | rfl | rfl | rfl <;> (try omega) <;>
    simp only [BitVec.getLsbD_append, BitVec.getLsbD_extractLsb'] <;> simp

/-- A data-memory write changes no other address. -/
theorem memRead_memWrite_other (s : State) (a b : DAddr) (v : Nibble) (h : b ≠ a) :
    memRead (memWrite s a v) b = memRead s b := by
  have hd : dloc a = dloc b → dloc a = .ram := fun e => by
    by_contra hr; exact h (dloc_inj a b e hr).symm
  unfold memWrite
  generalize ha : dloc a = la at hd
  cases la <;> (unfold memRead; generalize hb : dloc b = lb at hd; cases lb) <;>
    first
    | rfl
    | (exact absurd (hd rfl) (by decide))
    | (simp [ramGet_set_other _ _ _ _ h, ar2_parts, ar1_parts, ar0_parts, ix_parts])

/-- A data-memory write is read back, but for its fixed-0 bits. -/
theorem memRead_memWrite_same (s : State) (a : DAddr) (v : Nibble) (h : notPort a) :
    memRead (memWrite s a v) a = keptBits s a v := by
  have hp := dloc_notPort a h
  unfold memWrite memRead keptBits
  generalize dloc a = la at hp
  cases la <;> simp_all only [ar2_parts, ar1_parts, ar0_parts, ix_parts, Psword.nibble, setAr_ar, ramGet_set_same]
  all_goals first
    | (apply nibble_ext <;> simp only [BitVec.getLsbD_append, BitVec.getLsbD_extractLsb', BitVec.getLsbD_and] <;> simp)
    | simp_all

/-- A write to a port sets its latch. -/
theorem latchAt_memWrite_same (s : State) (a : DAddr) (v : Nibble) : latchAt (memWrite s a v) a = latchOf a v := by
  unfold memWrite latchAt latchOf
  generalize dloc a = la
  cases la <;> rfl

/-- A data-memory write changes no other latch. -/
theorem latchAt_memWrite_other (s : State) (a b : DAddr) (v : Nibble) (h : b ≠ a) :
    latchAt (memWrite s a v) b = latchAt s b := by
  have hd : dloc a = dloc b → dloc a = .ram := fun e => by
    by_contra hr; exact h (dloc_inj a b e hr).symm
  unfold memWrite
  generalize ha : dloc a = la at hd
  cases la <;> (unfold latchAt; generalize hb : dloc b = lb at hd; cases lb) <;>
    first
    | rfl
    | (exact absurd (hd rfl) (by decide))

/-- A data-memory write reaches nothing outside data memory. -/
theorem offMemory_memWrite (s : State) (a : DAddr) (v : Nibble) : offMemory (memWrite s a v) = offMemory s := by
  unfold memWrite
  generalize dloc a = la
  cases la <;> rfl

/-- P0F ignores writes. -/
theorem memWrite_p0f (s : State) (v : Nibble) : memWrite s 0x6F v = s := rfl

/-- All a data-memory write does. -/
theorem memWrite_stored (s : State) (a : DAddr) (v : Nibble) : stored s (memWrite s a v) a v := by
  refine ⟨⟨offMemory_memWrite s a v, fun b h => ⟨memRead_memWrite_other s a b v h, latchAt_memWrite_other s a b v h⟩⟩,
    memRead_memWrite_same s a v, latchAt_memWrite_same s a v, ?_⟩
  rintro rfl
  exact memWrite_p0f s v

/-! ### The parts of a program-memory address -/

/-- The bits a part keeps of an address are the address modulo the size of its program memory. -/
theorem addrMask_toNat (p : Part) (x : PAddr) : (x &&& p.addrMask).toNat = x.toNat % 2 ^ p.pcw := by
  rw [BitVec.toNat_and]
  cases p
  · exact Nat.and_two_pow_sub_one_eq_mod x.toNat 10
  · exact Nat.and_two_pow_sub_one_eq_mod x.toNat 11
  · exact Nat.and_two_pow_sub_one_eq_mod x.toNat 12
  · exact Nat.and_two_pow_sub_one_eq_mod x.toNat 12

/-- A masked address is within the part. -/
theorem inRange_mask (c : Config) (x : PAddr) : inRange c (x &&& c.part.addrMask) := by
  unfold inRange
  rw [BitVec.and_assoc, BitVec.and_self]

/-- Replacing the low byte's bits, which every part has, keeps an address within the part. -/
theorem inRange_low (c : Config) (x y : PAddr) (h : inRange c x) (hy : y.extractLsb' 8 4 = x.extractLsb' 8 4) :
    inRange c y := by
  have key : ∀ i, 8 ≤ i → i < 12 → y.getLsbD i = x.getLsbD i := by
    intro i h1 h2
    have := congrArg (fun z : Nibble => z.getLsbD (i - 8)) hy
    simp only [BitVec.getLsbD_extractLsb', show i - 8 < 4 by omega, show 8 + (i - 8) = i by omega, decide_true,
      Bool.true_and] at this
    exact this
  apply BitVec.eq_of_getLsbD_eq
  intro i hi
  have hx := congrArg (fun z : PAddr => z.getLsbD i) h
  simp only [BitVec.getLsbD_and] at hx ⊢
  by_cases h8 : 8 ≤ i
  · rw [key i h8 hi]; exact hx
  · have hm : ∀ p : Part, ∀ i, i < 8 → p.addrMask.getLsbD i = true := by intro p; cases p <;> decide
    rw [hm _ i (by omega), Bool.and_true]

/-! ### The address stack -/

theorem sp_sub (k : BitVec 3) : 1 ≤ k.toNat → k.toNat ≤ 5 → (k - 1).toNat + 1 = k.toNat ∧ (k - 1).toNat ≤ 4 := by
  revert k; decide

theorem asr_put_same (s : State) (t : AddrStack) (k : BitVec 3) (v : PAddr) (h : k.toNat ≤ 4) :
    asrGet { s with asr := t.put k v } k = v := by
  have : ∀ k : BitVec 3, k.toNat ≤ 4 → k = 0 ∨ k = 1 ∨ k = 2 ∨ k = 3 ∨ k = 4 := by decide
  rcases this k h with rfl | rfl | rfl | rfl | rfl <;> rfl

theorem asr_put_other (s : State) (k j : BitVec 3) (v : PAddr) (h : j ≠ k) :
    asrGet { s with asr := s.asr.put k v } j = asrGet s j := by
  have : ∀ k : BitVec 3, k = 0 ∨ k = 1 ∨ k = 2 ∨ k = 3 ∨ k = 4 ∨ k = 5 ∨ k = 6 ∨ k = 7 := by decide
  rcases this k with rfl | rfl | rfl | rfl | rfl | rfl | rfl | rfl <;>
    rcases this j with rfl | rfl | rfl | rfl | rfl | rfl | rfl | rfl <;> first | rfl | exact absurd rfl h

/-- What a read of the address stack depends on. -/
theorem asrGet_congr (s t : State) (k : BitVec 3) (h : s.asr = t.asr) (hf : s.freeIdx = t.freeIdx) (hc : s.cfg = t.cfg) :
    asrGet s k = asrGet t k := by
  unfold asrGet State.drawAt
  rw [h, hf, hc]

/-- A register just put is read, whatever else the state holds. -/
theorem asrGet_of_put (s : State) (t : AddrStack) (k : BitVec 3) (v : PAddr) (h : k.toNat ≤ 4) (hs : s.asr = t.put k v) :
    asrGet s k = v := by
  rw [← asr_put_same s t k v h, ← hs]

/-- The state after a push of `v`. -/
def pushed (s : State) (v : PAddr) : State :=
  { s with sp := s.sp - 1, asr := s.asr.put (s.sp - 1) (v &&& s.cfg.part.addrMask) }

/-- A push with room on the address stack. -/
theorem pushAddr_room (s : State) (v : PAddr) (h1 : 1 ≤ s.sp.toNat) (h2 : s.sp.toNat ≤ 5) :
    pushAddr s v = some (pushed s v) := by
  have : ∀ k : BitVec 3, 1 ≤ k.toNat → k.toNat ≤ 5 → ¬ (k - 1).toNat ≥ 6 := by decide
  unfold pushAddr
  rw [if_neg (this _ h1 h2)]
  rfl

theorem pushAddr_full (s : State) (v : PAddr) (h : s.sp = 0) : pushAddr s v = none := by
  unfold pushAddr
  rw [h]
  rfl

theorem popAddr_any (s : State) (h : s.sp.toNat ≤ 4) :
    popAddr s = some (asrGet s s.sp, { s with sp := s.sp + 1 }) := by
  have : ∀ k : BitVec 3, k.toNat ≤ 4 → ¬ (k + 1).toNat ≥ 6 := by decide
  unfold popAddr
  rw [if_neg (this _ h)]

theorem popAddr_empty (s : State) (h : s.sp = 5) : popAddr s = none := by
  unfold popAddr
  rw [h]
  rfl

theorem pushThen_room (s : State) (v : PAddr) (k : State → State) (h1 : 1 ≤ s.sp.toNat) (h2 : s.sp.toNat ≤ 5) :
    pushThen s v k = k (pushed s v) := by
  unfold pushThen
  rw [pushAddr_room s v h1 h2]

theorem pushThen_full (s : State) (v : PAddr) (k : State → State) (h : s.sp = 0) :
    pushThen s v k = applyReset .stack s := by
  unfold pushThen
  rw [pushAddr_full s v h]

theorem popThen_any (s : State) (k : PAddr → State → State) (h : s.sp.toNat ≤ 4) :
    popThen s k = k (asrGet s s.sp) { s with sp := s.sp + 1 } := by
  unfold popThen
  rw [popAddr_any s h]

theorem popThen_empty (s : State) (k : PAddr → State → State) (h : s.sp = 5) :
    popThen s k = applyReset .stack s := by
  unfold popThen
  rw [popAddr_empty s h]

/-- What a push leaves in the address stack. -/
theorem pushed_top (s : State) (v : PAddr) (h1 : 1 ≤ s.sp.toNat) (h2 : s.sp.toNat ≤ 5) (hv : inRange s.cfg v) :
    asrGet (pushed s v) (pushed s v).sp = v :=
  (asr_put_same { s with sp := s.sp - 1 } s.asr (s.sp - 1) _ (sp_sub _ h1 h2).2).trans hv

theorem pushed_other (s : State) (v : PAddr) (k : BitVec 3) (h : k ≠ s.sp - 1) :
    asrGet (pushed s v) k = asrGet s k :=
  asr_put_other s (s.sp - 1) k _ h

/-- Two cases of a push, in any state. -/
theorem pushThen_cases (s : State) (v : PAddr) (k : State → State) :
    pushThen s v k = applyReset .stack s ∨ ((s.sp - 1).toNat ≤ 5 ∧ pushThen s v k = k (pushed s v)) := by
  unfold pushThen pushAddr
  by_cases h : (s.sp - 1).toNat ≥ 6
  · left; rw [if_pos h]
  · right; rw [if_neg h]; exact ⟨by omega, rfl⟩

/-- Two cases of a pop, in any state. -/
theorem popThen_cases (s : State) (k : PAddr → State → State) :
    popThen s k = applyReset .stack s ∨
      ((s.sp + 1).toNat ≤ 5 ∧ popThen s k = k (asrGet s s.sp) { s with sp := s.sp + 1 }) := by
  unfold popThen popAddr
  by_cases h : (s.sp + 1).toNat ≥ 6
  · left; rw [if_pos h]
  · right; rw [if_neg h]; exact ⟨by omega, rfl⟩

/-! ### Interrupts -/

theorem irqSet_put_get (f : IrqSet) (x : IrqSource) (b : Bool) : (f.put x b).get x = b := by cases x <;> rfl

theorem irqSet_put_other (f : IrqSet) (x y : IrqSource) (b : Bool) (h : y ≠ x) : (f.put x b).get y = f.get y := by
  cases x <;> cases y <;> first | rfl | exact absurd rfl h

theorem irqSet_any_iff (f : IrqSet) : f.any = true ↔ ∃ x, f.get x = true := by
  unfold IrqSet.any
  constructor
  · intro h
    simp only [Bool.or_eq_true] at h
    rcases h with (((h | h) | h) | h) | h
    · exact ⟨.int, h⟩
    · exact ⟨.tm0, h⟩
    · exact ⟨.tm1, h⟩
    · exact ⟨.btm, h⟩
    · exact ⟨.sio, h⟩
  · rintro ⟨x, h⟩
    cases x <;> simp_all [IrqSet.get]

theorem irqSet_both_get (f g : IrqSet) (x : IrqSource) : (f.both g).get x = (f.get x && g.get x) := by cases x <;> rfl

/-- Taking an interrupt with room on the address stack: all it does. -/
theorem takeInterrupt_room (x : IrqSource) (s : State) (h1 : 1 ≤ s.sp.toNat) (h2 : s.sp.toNat ≤ 5) :
    takeInterrupt x s =
      { pushed s s.pc with
        inte := false
        irq := s.irq.put x false
        intsk := (s.psw :: s.intsk).take 3
        psw := Psword.zero
        pc := x.vector } := by
  unfold takeInterrupt
  rw [pushAddr_room s s.pc h1 h2]
  rfl

/-- Two cases of taking an interrupt, in any state. -/
theorem takeInterrupt_cases (x : IrqSource) (s : State) :
    takeInterrupt x s = applyReset .stack { s with irq := s.irq.put x (s.drawBit .irqAbandoned) } ∨
    ((s.sp - 1).toNat ≤ 5 ∧ takeInterrupt x s =
      { pushed s s.pc with
        inte := false
        irq := s.irq.put x false
        intsk := (s.psw :: s.intsk).take 3
        psw := Psword.zero
        pc := x.vector }) := by
  unfold takeInterrupt pushAddr
  by_cases h : (s.sp - 1).toNat ≥ 6
  · left; rw [if_pos h]
  · right; rw [if_neg h]; exact ⟨by omega, rfl⟩

/-- An acceptance check accepts nothing, or one enabled request. -/
theorem acceptCheck_cases (s : State) :
    acceptCheck s = s ∨ ∃ x, s.inte = true ∧ s.irq.get x = true ∧ s.ip.get x = true ∧
      acceptCheck s = acceptCycle x s := by
  unfold acceptCheck
  by_cases hi : s.inte = true
  · rw [if_pos hi]
    cases hf : (s.irq.both s.ip).first with
    | none => exact .inl rfl
    | some x =>
      refine .inr ⟨x, hi, ?_, ?_, rfl⟩ <;>
        (unfold IrqSet.first IrqSet.both at hf; repeat' split at hf) <;>
        simp_all [IrqSet.get] <;> (subst hf; simp_all)
  · rw [if_neg hi]; exact .inl rfl

/-! ### The data buffer -/

theorem memRead_ram (s : State) (m : Memory) (b : DAddr) :
    memRead { s with ram := m } b = if dloc b = .ram then ramGet m b else memRead s b := by
  unfold memRead
  split <;> simp_all <;> rfl

theorem ne_dbf (b : DAddr) : b.toNat < 0x0C ∨ 0x0F < b.toNat → b ≠ 0x0C ∧ b ≠ 0x0D ∧ b ≠ 0x0E ∧ b ≠ 0x0F := by
  revert b; decide

/-- DBF is read back whole. -/
theorem dbfRead_dbfWrite (s : State) (w : Word) : dbfRead (dbfWrite s w) = w := by
  unfold dbfRead dbfWrite
  simp only [ramGet_set_same, ramGet_set_other _ _ _ _ (by decide : (0x0C : DAddr) ≠ 0x0F),
    ramGet_set_other _ _ _ _ (by decide : (0x0C : DAddr) ≠ 0x0E),
    ramGet_set_other _ _ _ _ (by decide : (0x0C : DAddr) ≠ 0x0D),
    ramGet_set_other _ _ _ _ (by decide : (0x0D : DAddr) ≠ 0x0F),
    ramGet_set_other _ _ _ _ (by decide : (0x0D : DAddr) ≠ 0x0E),
    ramGet_set_other _ _ _ _ (by decide : (0x0E : DAddr) ≠ 0x0F)]
  apply BitVec.eq_of_getLsbD_eq
  intro i hi
  simp only [BitVec.getLsbD_append, BitVec.getLsbD_extractLsb']
  by_cases h0 : i < 4
  · simp [h0]
  by_cases h1 : i - 4 < 4
  · have : 4 + (i - 4) = i := by omega
    simp [h0, h1, this]
  by_cases h2 : i - 4 - 4 < 4
  · have : 8 + (i - 4 - 4) = i := by omega
    simp [h0, h1, h2, this]
  · have : 12 + (i - 4 - 4 - 4) = i := by omega
    have h3 : i - 4 - 4 - 4 < 4 := by omega
    simp [h0, h1, h2, h3, this]

/-- The low half of DBF is read back under the old upper half. -/
theorem dbfRead_dbfWriteLow (s : State) (v : Byte) :
    dbfRead (dbfWriteLow s v) = (dbfRead s).extractLsb' 8 8 ++ v := by
  unfold dbfRead dbfWriteLow
  simp only [ramGet_set_same, ramGet_set_other _ _ _ _ (by decide : (0x0C : DAddr) ≠ 0x0F),
    ramGet_set_other _ _ _ _ (by decide : (0x0C : DAddr) ≠ 0x0E),
    ramGet_set_other _ _ _ _ (by decide : (0x0D : DAddr) ≠ 0x0F),
    ramGet_set_other _ _ _ _ (by decide : (0x0D : DAddr) ≠ 0x0E),
    ramGet_set_other _ _ _ _ (by decide : (0x0E : DAddr) ≠ 0x0F)]
  apply BitVec.eq_of_getLsbD_eq
  intro i hi
  simp only [BitVec.getLsbD_append, BitVec.getLsbD_extractLsb']
  by_cases h0 : i < 4
  · simp [h0, show i < 8 by omega]
  by_cases h1 : i < 8
  · simp [h0, h1, show i - 4 < 4 by omega, show 4 + (i - 4) = i by omega]
  by_cases h2 : i < 12
  · simp [h0, h1, show ¬ i - 4 < 4 by omega, show i - 4 - 4 < 4 by omega, show i - 8 < 8 by omega,
      show ¬ 8 + (i - 8) < 4 by omega, show ¬ 8 + (i - 8) - 4 < 4 by omega,
      show 8 + (i - 8) - 4 - 4 = i - 4 - 4 by omega]
  · simp [h0, h1, show ¬ i - 4 < 4 by omega, show ¬ i - 4 - 4 < 4 by omega, show i - 8 < 8 by omega,
      show ¬ 8 + (i - 8) < 4 by omega, show ¬ 8 + (i - 8) - 4 < 4 by omega, show ¬ 8 + (i - 8) - 4 - 4 < 4 by omega,
      show 8 + (i - 8) - 4 - 4 - 4 = i - 4 - 4 - 4 by omega]

/-- A write of DBF changes nothing else. -/
theorem onlyDbf_dbfWrite (s : State) (w : Word) : onlyDbf s (dbfWrite s w) := by
  refine ⟨rfl, fun b hb => ?_⟩
  obtain ⟨h1, h2, h3, h4⟩ := ne_dbf b hb
  unfold dbfWrite
  rw [memRead_ram]
  split
  · rename_i h
    simp only [ramGet_set_other _ _ _ _ h1, ramGet_set_other _ _ _ _ h2, ramGet_set_other _ _ _ _ h3,
      ramGet_set_other _ _ _ _ h4]
    unfold memRead
    rw [h]
  · rfl

theorem onlyDbf_dbfWriteLow (s : State) (v : Byte) : onlyDbf s (dbfWriteLow s v) := by
  refine ⟨rfl, fun b hb => ?_⟩
  obtain ⟨_, _, h3, h4⟩ := ne_dbf b hb
  unfold dbfWriteLow
  rw [memRead_ram]
  split
  · rename_i h
    simp only [ramGet_set_other _ _ _ _ h3, ramGet_set_other _ _ _ _ h4]
    unfold memRead
    rw [h]
  · rfl

/-! ### Every memory operation keeps the canonical form -/

/-- RAM in canonical form: 110 nibbles. -/
def ramForm (m : Memory) : Prop := Memory.wf m = true ∧ Memory.below m 0x6E = true ∧ Memory.nibbles m = true

theorem ramForm_ramSet (m : Memory) (a : DAddr) (v : Nibble) (ha : a.toNat < 0x6E) (h : ramForm m) :
    ramForm (ramSet m a v) :=
  ⟨ramSet_wf _ _ _ h.1, ramSet_below _ _ _ _ h.2.1 ha, ramSet_nibbles _ _ _ h.2.2⟩

theorem ramForm_memWrite (s : State) (a : DAddr) (v : Nibble) (h : ramForm s.ram) : ramForm (memWrite s a v).ram := by
  unfold memWrite
  generalize hd : dloc a = l
  cases l
  case ram => exact ramForm_ramSet _ _ _ ((dloc_ram_iff a).mp hd) h
  all_goals exact h

theorem ramForm_dbfWrite (s : State) (w : Word) (h : ramForm s.ram) : ramForm (dbfWrite s w).ram :=
  ramForm_ramSet _ _ _ (by decide) (ramForm_ramSet _ _ _ (by decide) (ramForm_ramSet _ _ _ (by decide)
    (ramForm_ramSet _ _ _ (by decide) h)))

theorem ramForm_dbfWriteLow (s : State) (v : Byte) (h : ramForm s.ram) : ramForm (dbfWriteLow s v).ram :=
  ramForm_ramSet _ _ _ (by decide) (ramForm_ramSet _ _ _ (by decide) h)

theorem ramForm_memFill (f : Nat → Byte) (a n : Nat) (m : Memory) (hf : ∀ a, (f a).toNat < 16) (hn : a + n ≤ 0x6E)
    (h : ramForm m) : ramForm (memFill f a n m) := by
  refine memFill_induct ramForm f a n m h ?_
  intro m k hk hm
  exact ⟨memSet_wf _ _ _ hm.1, memSet_below _ _ _ _ hm.2.1 (by omega), memSet_nibbles _ _ _ hm.2.2 (hf _)⟩

theorem ramForm_resetRam (c : ResetCause) (s : State) (h : ramForm s.ram) : ramForm (resetRam c s) := by
  have hf : ∀ a, ((s.drawAt 4 .ram a).setWidth 8 : Byte).toNat < 16 := by
    intro a
    have := (s.drawAt 4 .ram a).isLt
    simp
    omega
  unfold resetRam
  split
  · exact ramForm_memFill _ _ _ _ hf (by omega) h
  · exact ramForm_memFill _ _ _ _ hf (by omega) ⟨rfl, rfl, rfl⟩

/-- The memories after reset have it. -/
theorem reset_memories : ramForm State.reset.ram ∧ Memory.wf State.reset.rom = true := ⟨⟨rfl, rfl, rfl⟩, rfl⟩

/-! ### Arithmetic and tests -/

/-- The end of an arithmetic operation with CMP = 0. -/
theorem arithFinish_store (s : State) (a : DAddr) (x : AluOut) (h : s.psw.cmp = false) :
    arithFinish s a x = memWrite { s with psw := { s.psw with cy := x.cy, z := decide (x.res = 0) } } a x.res := by
  unfold arithFinish
  simp only [h, Psword.withAlu, zAfter]
  by_cases hx : x.res = 0 <;> simp [hx]

/-- The end of an arithmetic operation with CMP = 1. -/
theorem arithFinish_compare (s : State) (a : DAddr) (x : AluOut) (h : s.psw.cmp = true) :
    arithFinish s a x = { s with psw := { s.psw with cy := x.cy, z := s.psw.z && decide (x.res = 0) } } := by
  unfold arithFinish
  simp only [h, Psword.withAlu, zAfter]
  by_cases hx : x.res = 0 <;> simp [hx, Bool.and_comm]

theorem skipIf_iff (s : State) (c : Bool) : (skipIf s c).skip = true ↔ s.skip = true ∨ c = true := by
  unfold skipIf
  split <;> simp_all

theorem skipIf_rest (s : State) (c : Bool) : { skipIf s c with skip := s.skip } = s := by
  unfold skipIf
  split <;> rfl

/-! ### Port reads -/

theorem latchOrPin_getLsbD (l a b : Nibble) (n : Nat) (hn : n < 4) :
    (latchOrPin l a b).getLsbD n = if l.getLsbD n then a.getLsbD n else b.getLsbD n := by
  unfold latchOrPin
  simp only [BitVec.getLsbD_or, BitVec.getLsbD_and, BitVec.getLsbD_not, hn, decide_true, Bool.true_and]
  cases l.getLsbD n <;> simp

theorem nibbleOf_bits (a b c d : Bool) : (nibbleOf a b c d).getLsbD 3 = a ∧ (nibbleOf a b c d).getLsbD 2 = b ∧
    (nibbleOf a b c d).getLsbD 1 = c ∧ (nibbleOf a b c d).getLsbD 0 = d := by
  revert a b c d; decide

/-! ### Pin levels -/

theorem spread_getLsbD (b : Bool) (n : Nat) (hn : n < 4) : (spread b).getLsbD n = b := by
  have h : ∀ c : Bool, ∀ k : Fin 4, (spread c).getLsbD k = c := by decide
  exact h b ⟨n, hn⟩

/-- What the chip drives, none of it while a reset is held (R501). -/
theorem outputEnable_getLsbD (s : State) (m : Nibble) (n : Nat) :
    (outputEnable s m).getLsbD n = (!pinsReleased s && m.getLsbD n) := by
  unfold outputEnable
  cases pinsReleased s <;> simp

/-- The level of a pin: the chip's, else the outside's, else the pull-up's, else free (R331). -/
theorem portLevels_getLsbD (drives level : Nibble) (ext : PortDrive) (pullup free : Nibble) (n : Nat) (hn : n < 4) :
    (portLevels drives level ext pullup free).getLsbD n =
      if drives.getLsbD n then level.getLsbD n
      else if ext.driven.getLsbD n then ext.level.getLsbD n
      else pullup.getLsbD n || free.getLsbD n := by
  unfold portLevels
  simp only [BitVec.getLsbD_or, BitVec.getLsbD_and, BitVec.getLsbD_not, hn, decide_true, Bool.true_and]
  cases drives.getLsbD n <;> cases ext.driven.getLsbD n <;> simp

end Sys2Proof.Machine
end

