-- ==== Sys2Proof/Laws/Cycle.lean ====
section
/-! SUPPORT. What the hardware's part of an instruction cycle can change: the peripherals' own counters, flags and results,
never the CPU, unless the watchdog resets the chip; and what each part of a cycle does (`clockedCycle_eq`). -/

namespace Sys2Proof.Machine

/-- A field that no peripheral changes. -/
theorem quietView_field {α : Type} (f : State → α) (s t : State) (h : quietView t = quietView s)
    (hf : ∀ u, f (quietView u) = f u) : f t = f s := by
  rw [← hf t, h, hf s]

theorem quiet_nextSample (s : State) : quietView (nextSample s) = quietView s := by
  unfold nextSample
  split <;> rfl

theorem quiet_intCycle (s : State) : quietView (intCycle s) = quietView s := rfl

theorem quiet_prescalerCycle (s : State) : quietView (prescalerCycle s) = quietView s := rfl

theorem quiet_tm1Count (s : State) : quietView (tm1Count s) = quietView s := by
  unfold tm1Count
  split <;> rfl

theorem quiet_tm1Pulse (s : State) : quietView (tm1Pulse s) = quietView s := by
  unfold tm1Pulse
  split
  · exact quiet_tm1Count s
  · rfl

theorem quiet_tm0Pulse (s : State) : quietView (tm0Pulse s) = quietView s := by
  unfold tm0Pulse
  split
  · split
    · simp only
      split
      · exact quiet_tm1Pulse _
      · rfl
    · rfl
  · rfl

theorem quiet_tm0Cycle (s : State) (b : Bool) : quietView (tm0Cycle b s) = quietView s := by
  unfold tm0Cycle
  split
  · exact quiet_tm0Pulse s
  · rfl

/-- A wait: its last pulse starts the CPU. -/
theorem quiet_waitCount (w : WaitFor) (s : State) :
    quietView { waitCount w s with mode := s.mode } = quietView s ∧
      ((waitCount w s).mode = s.mode ∨ (waitCount w s).mode = .run) := by
  unfold waitCount
  split
  · exact ⟨rfl, .inr rfl⟩
  · exact ⟨rfl, .inl rfl⟩

/-- The mode is a wait. -/
def isWaiting (m : Mode) : Prop := ∃ w g, m = .wait w g

theorem quiet_tm1Cycle (s : State) :
    quietView { tm1Cycle s with mode := s.mode } = quietView s ∧
      ((tm1Cycle s).mode = s.mode ∨ (isWaiting s.mode ∧ (tm1Cycle s).mode = .run)) := by
  have hp : quietView { tm1Pulse s with mode := s.mode } = quietView s ∧ (tm1Pulse s).mode = s.mode := by
    have h := quiet_tm1Pulse s
    have hm : (tm1Pulse s).mode = s.mode := quietView_field State.mode _ _ h (fun _ => rfl)
    exact ⟨by rw [← hm]; exact h, hm⟩
  unfold tm1Cycle
  split <;> rename_i hm
  · split
    · exact ⟨hp.1, .inl hp.2⟩
    · exact ⟨rfl, .inl rfl⟩
  · split
    · exact ⟨hp.1, .inl hp.2⟩
    · exact ⟨rfl, .inl rfl⟩
  · split
    · have h := quiet_waitCount ‹_› s
      exact ⟨h.1, h.2.elim .inl (fun h => .inr ⟨⟨_, _, hm⟩, h⟩)⟩
    · exact ⟨rfl, .inl rfl⟩
  · exact ⟨rfl, .inl rfl⟩
  · exact ⟨rfl, .inl rfl⟩

theorem quiet_adcCycle (s : State) : quietView (adcCycle s) = quietView s := by
  unfold adcCycle
  split <;> rfl

theorem quiet_sioFall (s : State) : quietView (sioFall s) = quietView s := rfl

theorem quiet_sioRise (s : State) : quietView (sioRise s) = quietView s := by
  unfold sioRise
  split
  · split <;> rfl
  · rfl

theorem quiet_sioCheckPins (s : State) : quietView (sioCheckPins s) = quietView s := by
  unfold sioCheckPins
  split <;> rfl

theorem quiet_sioExternal (s : State) : quietView (sioExternal s) = quietView s := by
  unfold sioExternal
  split
  · rfl
  · split
    · exact quiet_sioRise s
    · rfl

theorem quiet_sioDivided (s : State) (k : Nat) : quietView (sioDivided s k) = quietView s := by
  unfold sioDivided
  split
  · rfl
  · split
    · exact quiet_sioRise s
    · rfl

theorem quiet_sioClocked (s : State) : quietView (sioClocked s) = quietView s := by
  unfold sioClocked
  split
  · exact quiet_sioExternal s
  · exact quiet_sioRise _
  · exact quiet_sioDivided s 2
  · exact quiet_sioDivided s 5

theorem quiet_sioCycle (s : State) : quietView (sioCycle s) = quietView s := by
  have h : quietView (if s.sio.ts then sioClocked (sioCheckPins s) else s) = quietView s := by
    split
    · rw [quiet_sioClocked, quiet_sioCheckPins]
    · rfl
  exact h

theorem quiet_sioStopCycle (s : State) : quietView (sioStopCycle s) = quietView s := by
  have h : quietView (if s.sio.ts && decide (s.sio.ck = 0) then sioExternal (sioCheckPins s) else s) = quietView s := by
    split
    · rw [quiet_sioExternal, quiet_sioCheckPins]
    · rfl
  exact h

/-- A BTM pulse counts, or resets the chip, which takes an enabled watchdog. -/
theorem btmPulse_cases (s : State) :
    quietView (btmPulse s) = quietView s ∨ (s.btm.wdtEn = true ∧ ∃ u, btmPulse s = applyReset .wdt u) := by
  unfold btmPulse
  simp only
  split
  · rename_i h
    refine .inr ⟨?_, _, rfl⟩
    unfold wdtFires at h
    simp only [Bool.and_eq_true] at h
    exact h.1.1
  · exact .inl rfl

theorem btmCycle_cases (s : State) :
    quietView (btmCycle s) = quietView s ∨ (s.btm.wdtEn = true ∧ ∃ u, btmCycle s = applyReset .wdt u) := by
  unfold btmCycle
  split
  · exact btmPulse_cases s
  · exact .inl rfl

/-- A clocked cycle changes nothing of the CPU, but for the mode when a wait ends, or the watchdog resets the chip. -/
theorem clockedCycle_cases (s : State) :
    (quietView { clockedCycle s with mode := s.mode } = quietView s ∧
      ((clockedCycle s).mode = s.mode ∨ (isWaiting s.mode ∧ (clockedCycle s).mode = .run))) ∨
    (s.btm.wdtEn = true ∧ ∃ u, clockedCycle s = applyReset .wdt u) := by
  have h0 : quietView (tm0Cycle (tm0ExtPulse (nextSample s)) (prescalerCycle (intCycle (nextSample s)))) = quietView s := by
    rw [quiet_tm0Cycle, quiet_prescalerCycle, quiet_intCycle, quiet_nextSample]
  generalize hu : tm0Cycle (tm0ExtPulse (nextSample s)) (prescalerCycle (intCycle (nextSample s))) = u at h0
  have hum : u.mode = s.mode := quietView_field State.mode _ _ h0 (fun _ => rfl)
  have h1 := quiet_tm1Cycle u
  rw [hum] at h1
  have hv : quietView (sioCycle (adcCycle (tm1Cycle u))) = quietView (tm1Cycle u) := by
    rw [quiet_sioCycle, quiet_adcCycle]
  have e : clockedCycle s = btmCycle (sioCycle (adcCycle (tm1Cycle u))) := by rw [← hu]; rfl
  rw [e]
  generalize hw : sioCycle (adcCycle (tm1Cycle u)) = w at hv
  have h2 := btmCycle_cases w
  have hset : ∀ x y : State, quietView x = quietView y →
      quietView { x with mode := s.mode } = quietView { y with mode := s.mode } := by
    intro x y hxy
    exact congrArg (fun z : State => { z with mode := s.mode }) hxy
  rcases h2 with h2 | ⟨h2, v, hv'⟩
  · left
    have h3 : quietView (btmCycle w) = quietView (tm1Cycle u) := h2.trans hv
    have hm3 : (btmCycle w).mode = (tm1Cycle u).mode := quietView_field State.mode _ _ h3 (fun _ => rfl)
    refine ⟨(hset _ _ h3).trans (h1.1.trans h0), ?_⟩
    rw [hm3]
    exact h1.2
  · right
    have hb : w.btm.wdtEn = s.btm.wdtEn := by
      have a : w.btm.wdtEn = (tm1Cycle u).btm.wdtEn := quietView_field (fun z : State => z.btm.wdtEn) _ _ hv (fun _ => rfl)
      have b : (tm1Cycle u).btm.wdtEn = u.btm.wdtEn := quietView_field (fun z : State => z.btm.wdtEn) _ { tm1Cycle u with mode := s.mode } h1.1 (fun _ => rfl)
      have c : u.btm.wdtEn = s.btm.wdtEn := quietView_field (fun z : State => z.btm.wdtEn) _ _ h0 (fun _ => rfl)
      rw [a, b, c]
    exact ⟨hb ▸ h2, v, hv'⟩

/-- A cycle of STOP mode changes nothing of the CPU. -/
theorem quiet_stoppedCycle (s : State) : quietView (stoppedCycle s) = quietView s := by
  unfold stoppedCycle
  simp only
  rw [quiet_sioStopCycle]
  split
  · rw [quiet_tm0Pulse, quiet_intCycle, quiet_nextSample]
  · rw [quiet_intCycle, quiet_nextSample]

/-- A reset signal within a cycle is the watchdog's. -/
theorem clockedCycle_reset (s : State) (h0 : s.rstSig = false) (h : (clockedCycle s).rstSig = true) :
    s.btm.wdtEn = true ∧ ∃ u, clockedCycle s = applyReset .wdt u := by
  rcases clockedCycle_cases s with ⟨hq, _⟩ | hw
  · have : (clockedCycle s).rstSig = s.rstSig :=
      quietView_field State.rstSig _ { clockedCycle s with mode := s.mode } hq (fun _ => rfl)
    rw [this, h0] at h
    cases h
  · exact hw

/-- A cycle without a reset changes nothing of the CPU, but for the mode when a wait ends. -/
theorem clockedCycle_quiet (s : State) (h : (clockedCycle s).rstSig = false) :
    quietView { clockedCycle s with mode := s.mode } = quietView s ∧
      ((clockedCycle s).mode = s.mode ∨ (isWaiting s.mode ∧ (clockedCycle s).mode = .run)) := by
  rcases clockedCycle_cases s with hq | ⟨_, u, hu⟩
  · exact hq
  · rw [hu] at h
    cases h

/-! ### Counting -/

/-- A pulse of a wait below its modulo value. -/
theorem waitCount_before (w : WaitFor) (s : State) (h : s.tm1.count ≠ waitModulo w s) :
    waitCount w s = { s with tm1 := { s.tm1 with count := s.tm1.count + 1 } } := by
  unfold waitCount
  rw [if_neg h]

/-- The last pulse of a wait. -/
theorem waitCount_last (w : WaitFor) (s : State) (h : s.tm1.count = waitModulo w s) :
    waitCount w s =
      { s with
        tm1 := { s.tm1 with count := 0 }
        irq := { s.irq with tm1 := waitIrq w s }
        tm1Out := if s.tm1.en then !s.tm1Out else s.tm1Out
        mode := .run } := by
  unfold waitCount
  rw [if_pos h]

/-- A pulse at an enabled timer 0 below its modulo value. -/
theorem tm0Pulse_before (s : State) (he : s.tm0.en = true) (h : s.tm0.count ≠ s.tm0.modulo) :
    tm0Pulse s = { s with tm0 := { s.tm0 with count := s.tm0.count + 1 } } := by
  unfold tm0Pulse
  rw [if_pos he, if_neg h]

/-- The match of timer 0. -/
theorem tm0Pulse_match (s : State) (he : s.tm0.en = true) (h : s.tm0.count = s.tm0.modulo) :
    tm0Pulse s =
      (let t := { s with tm0 := { s.tm0 with count := 0 }, irq := { s.irq with tm0 := true } }
       if s.tm1.ck = 3 then tm1Pulse t else t) := by
  unfold tm0Pulse
  rw [if_pos he, if_pos h]

/-- A pulse at an enabled timer 1 of a running program. -/
theorem tm1Pulse_run (s : State) (he : s.tm1.en = true) (hm : s.mode = .run) : tm1Pulse s = tm1Count s := by
  unfold tm1Pulse tm1Free
  rw [he, hm]
  rfl

/-- A BTM pulse that the watchdog does not answer. -/
theorem btmPulse_quiet (s : State) (h : wdtFires (btmNext s.btm) = false) :
    btmPulse s = { s with
      btm := btmNext s.btm
      irq := { s.irq with btm := s.irq.btm || btmInterval (btmNext s.btm).isel (btmNext s.btm).cnt } } := by
  unfold btmPulse
  simp only
  rw [if_neg (by rw [h]; exact Bool.false_ne_true)]

/-! ### What each peripheral does to the state in its part of a cycle -/

@[simp] theorem timerAfter_none (t : Timer) : timerAfter t false = t := by
  unfold timerAfter
  rw [Bool.and_false]
  rfl

@[simp] theorem timerMatches_none (t : Timer) : timerMatches t false = false := by
  unfold timerMatches
  rw [Bool.and_false]
  rfl

/-- A stopped timer ignores its pulses (R363). -/
theorem timerAfter_stopped (t : Timer) (p : Bool) (h : t.en = false) :
    timerAfter t p = t ∧ timerMatches t p = false := by
  cases t
  simp_all [timerAfter, timerMatches]

/-- A pulse at timer 1: it counts where the mode lets it, and nothing else changes. -/
theorem tm1Pulse_eq (s : State) :
    tm1Pulse s = { s with
      tm1 := timerAfter s.tm1 (tm1Free s)
      irq := { s.irq with tm1 := s.irq.tm1 || timerMatches s.tm1 (tm1Free s) }
      tm1Out := s.tm1Out ^^ timerMatches s.tm1 (tm1Free s) } := by
  unfold tm1Pulse tm1Count timerAfter timerMatches
  by_cases hp : (s.tm1.en && tm1Free s) = true
  · by_cases hc : s.tm1.count = s.tm1.modulo <;> simp [hp, hc]
  · simp [hp]

/-- A pulse at timer 0, whose match is a pulse to timer 1 while TM1CK is 11. -/
theorem tm0Pulse_eq (s : State) :
    tm0Pulse s =
      (let m := timerMatches s.tm0 true
       let q := m && decide (s.tm1.ck = 3) && tm1Free s
       { s with
         tm0 := timerAfter s.tm0 true
         tm1 := timerAfter s.tm1 q
         irq := { s.irq with tm0 := s.irq.tm0 || m, tm1 := s.irq.tm1 || timerMatches s.tm1 q }
         tm1Out := s.tm1Out ^^ timerMatches s.tm1 q }) := by
  unfold tm0Pulse
  by_cases he : s.tm0.en = true
  · by_cases hc : s.tm0.count = s.tm0.modulo
    · by_cases hk : s.tm1.ck = 3
      · simp only [he, hc, hk, if_true, tm1Pulse_eq]
        simp [timerAfter, timerMatches, he, hc, hk, tm1Free]
      · simp only [he, hc, if_true, decide_eq_false hk, Bool.and_false, Bool.false_and, timerAfter_none,
          timerMatches_none]
        rw [if_neg hk]
        simp [timerAfter, timerMatches, he, hc]
    · simp [timerAfter, timerMatches, he, hc]
  · rw [if_neg he]
    obtain ⟨h1, h2⟩ := timerAfter_stopped s.tm0 true (by simpa using he)
    simp [h1, h2]

/-- Timer 0's part of a cycle: its pulse, or nothing. -/
theorem tm0Cycle_eq (ext : Bool) (s : State) :
    tm0Cycle ext s =
      (let m := timerMatches s.tm0 (tm0Clock s ext)
       let q := m && decide (s.tm1.ck = 3) && tm1Free s
       { s with
         tm0 := timerAfter s.tm0 (tm0Clock s ext)
         tm1 := timerAfter s.tm1 q
         irq := { s.irq with tm0 := s.irq.tm0 || m, tm1 := s.irq.tm1 || timerMatches s.tm1 q }
         tm1Out := s.tm1Out ^^ timerMatches s.tm1 q }) := by
  unfold tm0Cycle
  split
  · rename_i h
    rw [tm0Pulse_eq, h]
  · rename_i h
    simp [timerAfter, timerMatches, h]

/-- Timer 1's part of a cycle for the program. -/
theorem tm1Cycle_eq (s : State) (h : tm1Free s = true) :
    tm1Cycle s = { s with
      tm1 := timerAfter s.tm1 (tm1Clock s)
      irq := { s.irq with tm1 := s.irq.tm1 || timerMatches s.tm1 (tm1Clock s) }
      tm1Out := s.tm1Out ^^ timerMatches s.tm1 (tm1Clock s) } := by
  have hc : tm1Cycle s = if tm1Clock s then tm1Pulse s else s := by
    unfold tm1Free at h
    unfold tm1Cycle
    split at h <;> rename_i hm <;> first | (rw [hm]; done) | cases h
  rw [hc]
  split
  · rename_i hk
    rw [tm1Pulse_eq, h, hk]
  · rename_i hk
    simp [timerAfter, timerMatches, hk]

/-- Timer 1's part of a cycle touches timer 1, its request, TM1OUT_FF and, where it ends a wait, the mode. -/
theorem tm1Cycle_frame (s : State) :
    ∃ t b o m, tm1Cycle s = { s with tm1 := t, irq := { s.irq with tm1 := b }, tm1Out := o, mode := m } ∧
      (m = s.mode ∨ (isWaiting s.mode ∧ m = .run)) := by
  have hp : ∃ t b o m, tm1Pulse s = { s with tm1 := t, irq := { s.irq with tm1 := b }, tm1Out := o, mode := m } ∧
      (m = s.mode ∨ (isWaiting s.mode ∧ m = .run)) := ⟨_, _, _, s.mode, tm1Pulse_eq s, .inl rfl⟩
  have h0 : ∃ t b o m, s = { s with tm1 := t, irq := { s.irq with tm1 := b }, tm1Out := o, mode := m } ∧
      (m = s.mode ∨ (isWaiting s.mode ∧ m = .run)) := ⟨_, _, _, s.mode, rfl, .inl rfl⟩
  unfold tm1Cycle
  split
  · split
    · exact hp
    · exact h0
  · split
    · exact hp
    · exact h0
  · rename_i w g hm
    split
    · unfold waitCount
      split
      · exact ⟨_, _, _, _, rfl, .inr ⟨⟨w, g, hm⟩, rfl⟩⟩
      · exact ⟨_, _, _, s.mode, rfl, .inl rfl⟩
    · exact h0
  · exact h0
  · exact h0

/-- The converter's part of a cycle touches the converter. -/
theorem adcCycle_frame (s : State) : adcCycle s = { s with adc := (adcCycle s).adc } := by
  unfold adcCycle
  split <;> rfl

/-- It looks at the converter, the analog inputs and the draw alone. -/
theorem adcCycle_congr (s t : State) (h : t.adc = s.adc) (hp : t.pins = s.pins) (hf : t.freeIdx = s.freeIdx) :
    (adcCycle t).adc = (adcCycle s).adc := by
  unfold adcCycle
  rw [h]
  split
  · exact h
  · unfold continuousCycle decideBit anaHigher State.draw State.drawBit
    rw [h, hp, hf]
  · unfold singleCycle anaHigher State.drawBit
    rw [h, hp, hf]

/-- The serial interface's part of a cycle touches the interface and its request. -/
theorem sioClocked_frame (s : State) :
    ∃ x b, sioClocked (sioCheckPins s) = { s with sio := x, irq := { s.irq with sio := b } } := by
  have hr : ∀ u x b, u = { s with sio := x, irq := { s.irq with sio := b } } →
      ∃ x b, sioRise u = { s with sio := x, irq := { s.irq with sio := b } } := by
    rintro u x b rfl
    unfold sioRise
    split
    · split <;> exact ⟨_, _, rfl⟩
    · exact ⟨_, _, rfl⟩
  have hf : ∀ u x b, u = { s with sio := x, irq := { s.irq with sio := b } } →
      sioFall u = { s with sio := (sioFall u).sio, irq := { s.irq with sio := b } } := by
    rintro u x b rfl
    rfl
  obtain ⟨x, hc⟩ : ∃ x, sioCheckPins s = { s with sio := x, irq := { s.irq with sio := s.irq.sio } } := by
    unfold sioCheckPins
    split
    · exact ⟨s.sio, rfl⟩
    · exact ⟨_, rfl⟩
  have hd : ∀ k, ∃ x b, sioDivided (sioCheckPins s) k = { s with sio := x, irq := { s.irq with sio := b } } := by
    intro k
    unfold sioDivided
    split
    · exact ⟨_, _, hf _ _ _ hc⟩
    · split
      · exact hr _ _ _ hc
      · exact ⟨_, _, hc⟩
  unfold sioClocked
  split
  · unfold sioExternal
    split
    · exact ⟨_, _, hf _ _ _ hc⟩
    · split
      · exact hr _ _ _ hc
      · exact ⟨_, _, hc⟩
  · exact hr _ _ _ (hf _ _ _ hc)
  · exact hd 2
  · exact hd 5

/-- As `sioClocked_frame`, of the whole part. -/
theorem sioCycle_frame (s : State) : ∃ x b, sioCycle s = { s with sio := x, irq := { s.irq with sio := b } } := by
  obtain ⟨x, b, h⟩ := sioClocked_frame s
  unfold sioCycle
  cases ht : s.sio.ts
  · exact ⟨_, s.irq.sio, rfl⟩
  · simp only [if_true, h]
    exact ⟨_, b, rfl⟩

/-- The count after a pulse of an enabled watchdog (R383). -/
theorem wdtCount_btmNext (b : Btm) (h : b.wdtEn = true) : wdtCount (btmNext b) = wdtCount b + 1 := by
  obtain ⟨i, k, c, e, d, y⟩ := b
  cases h
  exact (by decide : ∀ (c : BitVec 7) (d : Bool),
    wdtCount (btmNext ⟨false, 0, c, true, d, false⟩) = wdtCount ⟨false, 0, c, true, d, false⟩ + 1) c d

/-- Which pulse overflows the watchdog (R383, R473). -/
theorem wdtFires_btmNext (b : Btm) :
    wdtFires (btmNext b) = (b.wdtEn && b.wdtCarry && decide (wdtCount b = 191)) := by
  cases h : b.wdtEn
  · show ((btmNext b).wdtEn && (btmNext b).wdtCarry && _) = _
    rw [show (btmNext b).wdtEn = false from h]
    rfl
  · have hc : (btmNext b).wdtCarry = if decide ((wdtCount b + 1).toNat < 8) then true else b.wdtCarry := by
      unfold btmNext
      simp only [h, Bool.true_and]
    unfold wdtFires
    rw [wdtCount_btmNext b h, show (btmNext b).wdtEn = true from h, hc]
    exact (by decide : ∀ (w : Byte) (y : Bool), (true && (if decide ((w + 1).toNat < 8) then true else y) &&
      decide (w + 1 = 192)) = (true && y && decide (w = 191))) _ _

/-- The interval timer's part of a cycle: a pulse counts, and may overflow the watchdog; without one nothing happens. -/
theorem btmCycle_eq (s : State) :
    btmCycle s =
      (let t := if btmClock s then { s with
          btm := btmNext s.btm
          irq := { s.irq with btm := s.irq.btm || btmInterval s.btm.isel (s.btm.cnt + 1) } }
        else s
       if btmClock s && wdtFires (btmNext s.btm) then applyReset .wdt t else t) := by
  unfold btmCycle
  cases btmClock s <;> rfl

/-- A division of the prescaler after its next count. -/
theorem prescaler_mod (p : BitVec 10) (k : Nat) (h : k ∣ 1024) (r : Nat) :
    ((p + 1).toNat % k = r) = ((p.toNat + 1) % k = r) := by
  rw [show (p + 1).toNat = (p.toNat + 1) % 1024 by simp, Nat.mod_mod_of_dvd _ h]

/-- The selected pulse of the interval timer (R381). -/
theorem btmClock_next (s : State) : btmClock (prescalerCycle s) = btmPulseNext s := by
  unfold btmClock dividedFalls prescalerCycle btmSelect
  simp only [prescaler_mod s.prescaler (2 ^ (4 + 1)) ⟨32, rfl⟩ 0, prescaler_mod s.prescaler (2 ^ (7 + 1)) ⟨4, rfl⟩ 0,
    prescaler_mod s.prescaler (2 ^ (9 + 1)) ⟨1, rfl⟩ 0]
  rfl

/-- A watchdog that is off resets nothing. -/
theorem wdtResetsNext_off (s : State) (h : s.btm.wdtEn = false) : wdtResetsNext s = false := by
  unfold wdtResetsNext
  rw [h]
  rfl

/-- The levels of SCK, SO and SI do not depend on TM1OUT_FF. -/
theorem pinsD_low (s t : State) (hp : t.ports = s.ports) (hs : t.sio = s.sio) (ho : t.pins = s.pins)
    (hf : t.freeIdx = s.freeIdx) (hr : pinsReleased t = pinsReleased s) (n : Nat) (hn : n < 3) :
    (pinsD t).getLsbD n = (pinsD s).getLsbD n := by
  have hb : ∀ a b c d e : Bool, (nibbleOf a b c d).getLsbD n = (nibbleOf e b c d).getLsbD n := by
    have h : ∀ a b c d e : Bool, ∀ k : Fin 3, (nibbleOf a b c d).getLsbD k = (nibbleOf e b c d).getLsbD k := by decide
    exact fun a b c d e => h a b c d e ⟨n, hn⟩
  unfold pinsD
  rw [portLevels_getLsbD _ _ _ _ _ _ (by omega), portLevels_getLsbD _ _ _ _ _ _ (by omega), outputEnable_getLsbD,
    outputEnable_getLsbD, BitVec.getLsbD_and, BitVec.getLsbD_and, BitVec.getLsbD_not, BitVec.getLsbD_not]
  unfold portDOutputs portDValue State.drawAt
  rw [hp, hs, ho, hf, hr, hb (if s.ports.tm1osel then t.tm1Out else _) _ _ _ (if s.ports.tm1osel then s.tm1Out else _)]

/-- The sample moves the outside and the draw, nothing of the chip. -/
theorem nextSample_frame (s : State) :
    nextSample s =
      { s with pins := (nextSample s).pins, inputs := (nextSample s).inputs, freeIdx := (nextSample s).freeIdx } := by
  unfold nextSample
  split <;> rfl

/-- The timers' part of a clocked cycle: the sample, INT, the prescaler, timer 0, timer 1 (D11). -/
theorem timers_frame (s : State) :
    let i := nextSample s
    let p := tm0Clock (prescalerCycle s) (tm0ExtPulse i)
    ∃ t1 b o m, tm1Cycle (tm0Cycle (tm0ExtPulse i) (prescalerCycle (intCycle i))) =
      { s with
        pins := i.pins, inputs := i.inputs, freeIdx := i.freeIdx
        prescaler := s.prescaler + 1, intPrev := pinInt i
        tm0 := timerAfter s.tm0 p, tm1 := t1, tm1Out := o, mode := m
        irq := { (intCycle i).irq with tm0 := s.irq.tm0 || timerMatches s.tm0 p, tm1 := b } } ∧
      (m = s.mode ∨ (isWaiting s.mode ∧ m = .run)) := by
  intro i p
  have hi : i = { s with pins := i.pins, inputs := i.inputs, freeIdx := i.freeIdx } := nextSample_frame s
  obtain ⟨t, b, o, m, h, hm⟩ := tm1Cycle_frame (tm0Cycle (tm0ExtPulse i) (prescalerCycle (intCycle i)))
  have hp : tm0Clock (prescalerCycle (intCycle i)) (tm0ExtPulse i) = p := by
    show tm0Clock (prescalerCycle (intCycle i)) (tm0ExtPulse i) = tm0Clock (prescalerCycle s) (tm0ExtPulse i)
    generalize tm0ExtPulse i = e
    rw [hi]
    rfl
  rw [tm0Cycle_eq, hp] at h hm ⊢
  refine ⟨t, b, o, m, h.trans ?_, ?_⟩
  · rw [hi]
    rfl
  · have hs : i.mode = s.mode := by rw [hi]
    rw [← hs]
    exact hm

/-- What is left of a clocked cycle: every part acts on its own registers, the converter and the serial interface on the
state that the timers leave, and where the watchdog overflows the chip is reset. -/
theorem clockedCycle_eq (s : State) :
    let i := nextSample s
    let c := tm1Cycle (tm0Cycle (tm0ExtPulse i) (prescalerCycle (intCycle i)))
    let v := { c with adc := (adcCycle i).adc }
    let x := { v with
      sio := (sioCycle v).sio
      btm := if btmPulseNext s then btmNext s.btm else s.btm
      irq := { v.irq with
        sio := (sioCycle v).irq.sio
        btm := s.irq.btm || (btmPulseNext s && btmInterval s.btm.isel (s.btm.cnt + 1)) } }
    clockedCycle s = if wdtResetsNext s then applyReset .wdt x else x := by
  intro i c v x
  have hi : i.irq.btm = s.irq.btm ∧ i.adc = s.adc := by
    show (nextSample s).irq.btm = _ ∧ (nextSample s).adc = _
    rw [nextSample_frame s]
    exact ⟨rfl, rfl⟩
  obtain ⟨t1, b1, o, m, hc, _⟩ := timers_frame s
  change c = _ at hc
  have hv : adcCycle c = v := by
    rw [adcCycle_frame c, adcCycle_congr i c (by rw [hc, hi.2]) (by rw [hc]) (by rw [hc])]
  have hb : v.btm = s.btm ∧ v.irq.btm = s.irq.btm := by
    refine ⟨?_, ?_⟩
    · show c.btm = _
      rw [hc]
    · show c.irq.btm = _
      rw [hc]
      exact hi.1
  have hk : btmClock (sioCycle v) = btmPulseNext s := by
    obtain ⟨x, b, hs⟩ := sioCycle_frame v
    rw [hs, ← btmClock_next]
    show btmClock c = _
    rw [hc]
    rfl
  have hw : (btmPulseNext s && wdtFires (btmNext s.btm)) = wdtResetsNext s := by
    rw [wdtFires_btmNext, Bool.and_comm]
    rfl
  have e : clockedCycle s = btmCycle (sioCycle (adcCycle c)) := rfl
  obtain ⟨y, b, hs⟩ := sioCycle_frame v
  have hsb : (sioCycle v).btm = s.btm := by
    rw [hs]
    exact hb.1
  rw [e, hv, btmCycle_eq, hk, hsb, hw]
  have hx : (if btmPulseNext s then { sioCycle v with
      btm := btmNext s.btm
      irq := { (sioCycle v).irq with btm := (sioCycle v).irq.btm || btmInterval s.btm.isel (s.btm.cnt + 1) } }
      else sioCycle v) = x := by
    show _ = ({ v with
      sio := (sioCycle v).sio
      btm := if btmPulseNext s then btmNext s.btm else s.btm
      irq := { v.irq with
        sio := (sioCycle v).irq.sio
        btm := s.irq.btm || (btmPulseNext s && btmInterval s.btm.isel (s.btm.cnt + 1)) } } : State)
    rw [hs]
    obtain ⟨h1, h2⟩ := hb
    cases btmPulseNext s
    · simp only [Bool.false_eq_true, if_false, Bool.false_and, Bool.or_false, ← h1, ← h2]
    · simp only [if_true, Bool.true_and, ← h1, ← h2]
  simp only [hx]

/-! ### The converter and the serial interface -/

/-- A transfer that nothing disturbed leaves SIOSFR (R413, R414). -/
theorem sioKept_clean (s : State) (h : s.sio.tainted = false) : sioKept s = s.sio.sfr := by
  unfold sioKept
  rw [h]
  rfl

/-- The comparison of a code is one with the number of codes below the input (R390). -/
theorem anaHigher_eq (s : State) (code : Byte) : anaHigher s code = decide (code.toNat < analogInput s) := by
  unfold anaHigher analogInput
  generalize (s.adc.ch.extractLsb' 0 2).toNat = k
  match k with
  | 0 => rfl
  | 1 => rfl
  | 2 => rfl
  | _ + 3 => rfl

/-- SI is the outside's level where the serial function is on and the outside drives the pin (R329, R331). -/
theorem pinsD_si (s : State) (he : s.ports.sioen = true) (hd : s.pins.p0d.driven.getLsbD 2 = true) :
    (pinsD s).getLsbD 2 = s.pins.p0d.level.getLsbD 2 := by
  have ho : (portDOutputs s).getLsbD 2 = (!s.ports.sioen && s.ports.dbio.getLsbD 2) := (nibbleOf_bits _ _ _ _).2.1
  unfold pinsD
  rw [portLevels_getLsbD _ _ _ _ _ _ (by decide), outputEnable_getLsbD, BitVec.getLsbD_and, ho, he, hd]
  simp

/-- The level of SI does not depend on the serial interface. -/
theorem pinsD_si_sio (s : State) (x : Sio) : (pinsD { s with sio := x }).getLsbD 2 = (pinsD s).getLsbD 2 := by
  have ho : ∀ t : State, (portDOutputs t).getLsbD 2 = (!t.ports.sioen && t.ports.dbio.getLsbD 2) :=
    fun t => (nibbleOf_bits _ _ _ _).2.1
  have hv : ∀ t : State, (portDValue t).getLsbD 2 = t.ports.latD.getLsbD 2 := fun t => (nibbleOf_bits _ _ _ _).2.1
  unfold pinsD
  rw [portLevels_getLsbD _ _ _ _ _ _ (by decide), portLevels_getLsbD _ _ _ _ _ _ (by decide), outputEnable_getLsbD,
    outputEnable_getLsbD, BitVec.getLsbD_and, BitVec.getLsbD_and, BitVec.getLsbD_not, BitVec.getLsbD_not, ho, ho, hv, hv]
  rfl

/-- What the edges of one cycle do to a transfer in progress, its pins checked first (R412). -/
theorem serialAfter_edges (s t v : State) (falls rises q : Bool) (hs : v.sio = s.sio) (hi : v.irq.sio = s.irq.sio)
    (hp : v.ports = s.ports) (hd : (pinsD v).getLsbD 2 = (pinsD (nextSample s)).getLsbD 2) (hts : s.sio.ts = true)
    (ht : let c := sioCheckPins v
      let a := if falls then sioFall c else c
      let b := if rises then sioRise a else a
      t.sio = { b.sio with sckPrev := q } ∧ t.irq.sio = b.irq.sio) :
    serialAfter s t falls rises := by
  obtain ⟨h1, h2⟩ := ht
  have hc : sioCheckPins v = { v with sio := { s.sio with tainted := !s.ports.sioen || s.sio.tainted } } := by
    have he : v.ports.sioen = s.ports.sioen := by rw [hp]
    unfold sioCheckPins
    rw [he]
    cases s.ports.sioen <;> simp [← hs]
  have hd' : ∀ x, (pinsD { v with sio := x }).getLsbD 2 = (pinsD (nextSample s)).getLsbD 2 :=
    fun x => (pinsD_si_sio v x).trans hd
  rw [hc] at h1 h2
  unfold serialAfter
  by_cases h7 : s.sio.cnt = 7 <;> cases falls <;> cases rises <;> cases hl : s.sio.sckLow <;>
    simp only [sioFall, sioRise, sioShifted, hd', h7, hl, hts, hi, if_true, if_false, Bool.false_eq_true] at h1 h2 <;>
    simp +contextual [h1, h2, h7] <;> exact ⟨h7, fun e => absurd e h7⟩

end Sys2Proof.Machine
end

