-- ==== Sys2Proof/Laws/Decode.lean ====
section
/-! SUPPORT. What the fields of a word are, and what an encoded word's fields are. -/

namespace Sys2Proof

/-- Words equal in every bit are equal, field by field. -/
theorem word_split (w : Word) : encodeM (wordOp w) (wordM w) (wordLow w) = w := by
  unfold encodeM wordOp wordM wordLow
  apply BitVec.eq_of_getLsbD_eq
  intro i hi
  simp only [BitVec.getLsbD_append, BitVec.getLsbD_extractLsb']
  by_cases h0 : i < 4
  · simp [h0]
  by_cases h1 : i < 11
  · simp [h0, show i - 4 < 7 by omega, show 4 + (i - 4) = i by omega]
  · simp [h0, show ¬ i - 4 < 7 by omega, show i - 4 - 7 < 5 by omega, show 11 + (i - 4 - 7) = i by omega]

theorem word_splitA (w : Word) : encodeA (wordOp w) (wordAddr w) = w := by
  unfold encodeA wordOp wordAddr
  apply BitVec.eq_of_getLsbD_eq
  intro i hi
  simp only [BitVec.getLsbD_append, BitVec.getLsbD_extractLsb']
  by_cases h1 : i < 11
  · simp [h1]
  · simp [h1, show i - 11 < 5 by omega, show 11 + (i - 11) = i by omega]

theorem wordM_split (w : Word) : wordHigh w ++ wordSub w = wordM w := by
  unfold wordM wordSub wordHigh
  apply BitVec.eq_of_getLsbD_eq
  intro i hi
  simp only [BitVec.getLsbD_append, BitVec.getLsbD_extractLsb']
  by_cases h0 : i < 4
  · simp [h0, show i < 7 by omega]
  · simp [h0, hi, show i - 4 < 3 by omega, show 8 + (i - 4) = 4 + i by omega]

/-- A word of group `G`, from its fields (R144). -/
theorem word_splitG (w : Word) (h : (wordOp w).toNat = 7) : encodeG (wordHigh w) (wordSub w) (wordLow w) = w := by
  have e : wordOp w = (0x07 : BitVec 5) := BitVec.eq_of_toNat_eq h
  conv_rhs => rw [← word_split w, e, ← wordM_split]
  unfold encodeG encodeM
  apply BitVec.eq_of_getLsbD_eq
  intro i hi
  simp only [BitVec.getLsbD_append]
  by_cases h0 : i < 4
  · simp [h0]
  by_cases h1 : i < 8
  · simp [h0, show i - 4 < 4 by omega, show i - 4 < 7 by omega]
  by_cases h2 : i < 11
  · simp [h0, show ¬ i - 4 < 4 by omega, show i - 4 - 4 < 3 by omega, show i - 4 < 7 by omega]
  · simp [h0, show ¬ i - 4 < 4 by omega, show ¬ i - 4 - 4 < 3 by omega, show ¬ i - 4 < 7 by omega,
      show i - 4 - 4 - 3 = i - 4 - 7 by omega]

@[simp] theorem wordOp_encodeM (op : BitVec 5) (m : DAddr) (low : Nibble) : wordOp (encodeM op m low) = op := by
  unfold wordOp encodeM
  apply BitVec.eq_of_getLsbD_eq
  intro i hi
  simp only [BitVec.getLsbD_append, BitVec.getLsbD_extractLsb']
  simp [hi, show ¬ 11 + i < 4 by omega, show ¬ 11 + i - 4 < 7 by omega, show 11 + i - 4 - 7 = i by omega]

@[simp] theorem wordM_encodeM (op : BitVec 5) (m : DAddr) (low : Nibble) : wordM (encodeM op m low) = m := by
  unfold wordM encodeM
  apply BitVec.eq_of_getLsbD_eq
  intro i hi
  simp only [BitVec.getLsbD_append, BitVec.getLsbD_extractLsb']
  simp [hi, show ¬ 4 + i < 4 by omega, show 4 + i - 4 = i by omega]

@[simp] theorem wordLow_encodeM (op : BitVec 5) (m : DAddr) (low : Nibble) : wordLow (encodeM op m low) = low := by
  unfold wordLow encodeM
  apply BitVec.eq_of_getLsbD_eq
  intro i hi
  simp only [BitVec.getLsbD_append, BitVec.getLsbD_extractLsb']
  simp [hi]

@[simp] theorem wordOp_encodeA (op : BitVec 5) (a : BitVec 11) : wordOp (encodeA op a) = op := by
  unfold wordOp encodeA
  apply BitVec.eq_of_getLsbD_eq
  intro i hi
  simp only [BitVec.getLsbD_append, BitVec.getLsbD_extractLsb']
  simp [hi]

@[simp] theorem wordAddr_encodeA (op : BitVec 5) (a : BitVec 11) : wordAddr (encodeA op a) = a := by
  unfold wordAddr encodeA
  apply BitVec.eq_of_getLsbD_eq
  intro i hi
  simp only [BitVec.getLsbD_append, BitVec.getLsbD_extractLsb']
  simp [hi]

@[simp] theorem wordOp_encodeG (high : BitVec 3) (sub low : Nibble) : wordOp (encodeG high sub low) = 0x07 := by
  unfold wordOp encodeG
  apply BitVec.eq_of_getLsbD_eq
  intro i hi
  simp only [BitVec.getLsbD_append, BitVec.getLsbD_extractLsb']
  simp only [hi, show ¬ 11 + i < 4 by omega, show ¬ 11 + i - 4 < 4 by omega, show ¬ 11 + i - 4 - 4 < 3 by omega,
    show 11 + i - 4 - 4 - 3 = i by omega, decide_true, Bool.true_and, if_false]

@[simp] theorem wordHigh_encodeG (high : BitVec 3) (sub low : Nibble) : wordHigh (encodeG high sub low) = high := by
  unfold wordHigh encodeG
  apply BitVec.eq_of_getLsbD_eq
  intro i hi
  simp only [BitVec.getLsbD_append, BitVec.getLsbD_extractLsb']
  simp [hi, show ¬ 8 + i < 4 by omega, show ¬ 8 + i - 4 < 4 by omega, show 8 + i - 4 - 4 = i by omega]

@[simp] theorem wordSub_encodeG (high : BitVec 3) (sub low : Nibble) : wordSub (encodeG high sub low) = sub := by
  unfold wordSub encodeG
  apply BitVec.eq_of_getLsbD_eq
  intro i hi
  simp only [BitVec.getLsbD_append, BitVec.getLsbD_extractLsb']
  simp [hi, show ¬ 4 + i < 4 by omega, show 4 + i - 4 = i by omega]

@[simp] theorem wordLow_encodeG (high : BitVec 3) (sub low : Nibble) : wordLow (encodeG high sub low) = low := by
  unfold wordLow encodeG
  apply BitVec.eq_of_getLsbD_eq
  intro i hi
  simp only [BitVec.getLsbD_append, BitVec.getLsbD_extractLsb']
  simp [hi]

/-- A 7-bit address from its two parts. -/
@[simp] theorem rf_join (a : DAddr) : a.extractLsb' 4 3 ++ a.extractLsb' 0 4 = a := by revert a; decide

@[simp] theorem rf_high (h : BitVec 3) (l : Nibble) : (h ++ l).extractLsb' 4 3 = h := by revert h l; decide

@[simp] theorem rf_low (h : BitVec 3) (l : Nibble) : (h ++ l).extractLsb' 0 4 = l := by revert h l; decide

end Sys2Proof
end

