-- ==== Sys2Proof/Laws/PerInstr.lean ====
section
/-! SUPPORT. Every instruction's word is one of its row of the opcode table (R145). -/

namespace Sys2Proof

/-- `mask` and `match` of the instruction's row (R145): the fixed bits and their values. -/
def rowOf (i : Instr) : Word × Word :=
  match i with
  | .addR _ _ => (0xF800, 0x0000)
  | .addI _ _ => (0xF800, 0x8000)
  | .addcR _ _ => (0xF800, 0x1000)
  | .addcI _ _ => (0xF800, 0x9000)
  | .incAr => (0xFFFF, 0x3890)
  | .incIx => (0xFFFF, 0x3880)
  | .subR _ _ => (0xF800, 0x0800)
  | .subI _ _ => (0xF800, 0x8800)
  | .subcR _ _ => (0xF800, 0x1800)
  | .subcI _ _ => (0xF800, 0x9800)
  | .orR _ _ => (0xF800, 0x3000)
  | .orI _ _ => (0xF800, 0xB000)
  | .andR _ _ => (0xF800, 0x2000)
  | .andI _ _ => (0xF800, 0xA000)
  | .xorR _ _ => (0xF800, 0x2800)
  | .xorI _ _ => (0xF800, 0xA800)
  | .skt _ _ => (0xF800, 0xF000)
  | .skf _ _ => (0xF800, 0xF800)
  | .ske _ _ => (0xF800, 0x4800)
  | .skne _ _ => (0xF800, 0x5800)
  | .skge _ _ => (0xF800, 0xC800)
  | .sklt _ _ => (0xF800, 0xD800)
  | .rorc _ => (0xFFF0, 0x3870)
  | .ld _ _ => (0xF800, 0x4000)
  | .st _ _ => (0xF800, 0xC000)
  | .movIndDst _ _ => (0xF800, 0x5000)
  | .movIndSrc _ _ => (0xF800, 0xD000)
  | .movI _ _ => (0xF800, 0xE800)
  | .movt => (0xFFFF, 0x3810)
  | .pushAr => (0xFFFF, 0x38D0)
  | .popAr => (0xFFFF, 0x38C0)
  | .peek _ => (0xF8F0, 0x3830)
  | .poke _ => (0xF8F0, 0x3820)
  | .get _ => (0xF8F0, 0x38B0)
  | .put _ => (0xF8F0, 0x38A0)
  | .brPage0 _ => (0xF800, 0x6000)
  | .brPage1 _ => (0xF800, 0x6800)
  | .brAr => (0xFFFF, 0x3840)
  | .call _ => (0xF800, 0xE000)
  | .callAr => (0xFFFF, 0x3850)
  | .ret => (0xFFFF, 0x38E0)
  | .retsk => (0xFFFF, 0x39E0)
  | .reti => (0xFFFF, 0x3CE0)
  | .ei => (0xFFFF, 0x38F0)
  | .di => (0xFFFF, 0x39F0)
  | .stop _ => (0xFFF0, 0x3AF0)
  | .halt _ => (0xFFF0, 0x3BF0)
  | .nop => (0xFFFF, 0x3CF0)

/-- Formats `RM` and `MI`: only the operation code is fixed. -/
theorem encodeM_row (op : BitVec 5) (m : DAddr) (low : Nibble) :
    encodeM op m low &&& 0xF800 = encodeM op 0 0 := by
  apply BitVec.eq_of_getLsbD_eq
  intro i hi
  have : i = 0 ∨ i = 1 ∨ i = 2 ∨ i = 3 ∨ i = 4 ∨ i = 5 ∨ i = 6 ∨ i = 7 ∨ i = 8 ∨ i = 9 ∨ i = 10 ∨ i = 11 ∨ i = 12 ∨
      i = 13 ∨ i = 14 ∨ i = 15 := by omega
  unfold encodeM
  simp only [BitVec.getLsbD_append, BitVec.getLsbD_and]
  rcases this with rfl | rfl | rfl | rfl | rfl | rfl | rfl | rfl | rfl | rfl | rfl | rfl | rfl | rfl | rfl | rfl <;> simp

/-- Format `A`. -/
theorem encodeA_row (op : BitVec 5) (a : BitVec 11) : encodeA op a &&& 0xF800 = encodeA op 0 := by
  apply BitVec.eq_of_getLsbD_eq
  intro i hi
  have : i = 0 ∨ i = 1 ∨ i = 2 ∨ i = 3 ∨ i = 4 ∨ i = 5 ∨ i = 6 ∨ i = 7 ∨ i = 8 ∨ i = 9 ∨ i = 10 ∨ i = 11 ∨ i = 12 ∨
      i = 13 ∨ i = 14 ∨ i = 15 := by omega
  unfold encodeA
  simp only [BitVec.getLsbD_append, BitVec.getLsbD_and]
  rcases this with rfl | rfl | rfl | rfl | rfl | rfl | rfl | rfl | rfl | rfl | rfl | rfl | rfl | rfl | rfl | rfl <;> simp

end Sys2Proof

namespace Sys2Proof.Laws

/-- The word of `i` has the fixed bits of its row. -/
def OpcodeRow.Statement (i : Instr) : Prop := encode i &&& (rowOf i).1 = (rowOf i).2

theorem OpcodeRow.addR (r : Nibble) (m : DAddr) : OpcodeRow.Statement (.addR r m) := encodeM_row _ _ _

theorem OpcodeRow.addI (m : DAddr) (n4 : Nibble) : OpcodeRow.Statement (.addI m n4) := encodeM_row _ _ _

theorem OpcodeRow.addcR (r : Nibble) (m : DAddr) : OpcodeRow.Statement (.addcR r m) := encodeM_row _ _ _

theorem OpcodeRow.addcI (m : DAddr) (n4 : Nibble) : OpcodeRow.Statement (.addcI m n4) := encodeM_row _ _ _

theorem OpcodeRow.incAr : OpcodeRow.Statement .incAr := rfl

theorem OpcodeRow.incIx : OpcodeRow.Statement .incIx := rfl

theorem OpcodeRow.subR (r : Nibble) (m : DAddr) : OpcodeRow.Statement (.subR r m) := encodeM_row _ _ _

theorem OpcodeRow.subI (m : DAddr) (n4 : Nibble) : OpcodeRow.Statement (.subI m n4) := encodeM_row _ _ _

theorem OpcodeRow.subcR (r : Nibble) (m : DAddr) : OpcodeRow.Statement (.subcR r m) := encodeM_row _ _ _

theorem OpcodeRow.subcI (m : DAddr) (n4 : Nibble) : OpcodeRow.Statement (.subcI m n4) := encodeM_row _ _ _

theorem OpcodeRow.orR (r : Nibble) (m : DAddr) : OpcodeRow.Statement (.orR r m) := encodeM_row _ _ _

theorem OpcodeRow.orI (m : DAddr) (n4 : Nibble) : OpcodeRow.Statement (.orI m n4) := encodeM_row _ _ _

theorem OpcodeRow.andR (r : Nibble) (m : DAddr) : OpcodeRow.Statement (.andR r m) := encodeM_row _ _ _

theorem OpcodeRow.andI (m : DAddr) (n4 : Nibble) : OpcodeRow.Statement (.andI m n4) := encodeM_row _ _ _

theorem OpcodeRow.xorR (r : Nibble) (m : DAddr) : OpcodeRow.Statement (.xorR r m) := encodeM_row _ _ _

theorem OpcodeRow.xorI (m : DAddr) (n4 : Nibble) : OpcodeRow.Statement (.xorI m n4) := encodeM_row _ _ _

theorem OpcodeRow.skt (m : DAddr) (n : Nibble) : OpcodeRow.Statement (.skt m n) := encodeM_row _ _ _

theorem OpcodeRow.skf (m : DAddr) (n : Nibble) : OpcodeRow.Statement (.skf m n) := encodeM_row _ _ _

theorem OpcodeRow.ske (m : DAddr) (n4 : Nibble) : OpcodeRow.Statement (.ske m n4) := encodeM_row _ _ _

theorem OpcodeRow.skne (m : DAddr) (n4 : Nibble) : OpcodeRow.Statement (.skne m n4) := encodeM_row _ _ _

theorem OpcodeRow.skge (m : DAddr) (n4 : Nibble) : OpcodeRow.Statement (.skge m n4) := encodeM_row _ _ _

theorem OpcodeRow.sklt (m : DAddr) (n4 : Nibble) : OpcodeRow.Statement (.sklt m n4) := encodeM_row _ _ _

theorem OpcodeRow.rorc (r : Nibble) : OpcodeRow.Statement (.rorc r) := by
  unfold OpcodeRow.Statement
  revert r
  decide

theorem OpcodeRow.ld (r : Nibble) (m : DAddr) : OpcodeRow.Statement (.ld r m) := encodeM_row _ _ _

theorem OpcodeRow.st (m : DAddr) (r : Nibble) : OpcodeRow.Statement (.st m r) := encodeM_row _ _ _

theorem OpcodeRow.movIndDst (r : Nibble) (m : DAddr) : OpcodeRow.Statement (.movIndDst r m) := encodeM_row _ _ _

theorem OpcodeRow.movIndSrc (m : DAddr) (r : Nibble) : OpcodeRow.Statement (.movIndSrc m r) := encodeM_row _ _ _

theorem OpcodeRow.movI (m : DAddr) (n4 : Nibble) : OpcodeRow.Statement (.movI m n4) := encodeM_row _ _ _

theorem OpcodeRow.movt : OpcodeRow.Statement .movt := rfl

theorem OpcodeRow.pushAr : OpcodeRow.Statement .pushAr := rfl

theorem OpcodeRow.popAr : OpcodeRow.Statement .popAr := rfl

theorem OpcodeRow.peek (rf : DAddr) : OpcodeRow.Statement (.peek rf) := by
  unfold OpcodeRow.Statement
  revert rf
  decide

theorem OpcodeRow.poke (rf : DAddr) : OpcodeRow.Statement (.poke rf) := by
  unfold OpcodeRow.Statement
  revert rf
  decide

theorem OpcodeRow.get (p : DAddr) : OpcodeRow.Statement (.get p) := by
  unfold OpcodeRow.Statement
  revert p
  decide

theorem OpcodeRow.put (p : DAddr) : OpcodeRow.Statement (.put p) := by
  unfold OpcodeRow.Statement
  revert p
  decide

theorem OpcodeRow.brPage0 (addr : BitVec 11) : OpcodeRow.Statement (.brPage0 addr) := encodeA_row _ _

theorem OpcodeRow.brPage1 (addr : BitVec 11) : OpcodeRow.Statement (.brPage1 addr) := encodeA_row _ _

theorem OpcodeRow.brAr : OpcodeRow.Statement .brAr := rfl

theorem OpcodeRow.call (addr : BitVec 11) : OpcodeRow.Statement (.call addr) := encodeA_row _ _

theorem OpcodeRow.callAr : OpcodeRow.Statement .callAr := rfl

theorem OpcodeRow.ret : OpcodeRow.Statement .ret := rfl

theorem OpcodeRow.retsk : OpcodeRow.Statement .retsk := rfl

theorem OpcodeRow.reti : OpcodeRow.Statement .reti := rfl

theorem OpcodeRow.ei : OpcodeRow.Statement .ei := rfl

theorem OpcodeRow.di : OpcodeRow.Statement .di := rfl

theorem OpcodeRow.stop (s : Nibble) : OpcodeRow.Statement (.stop s) := by
  unfold OpcodeRow.Statement
  revert s
  decide

theorem OpcodeRow.halt (h : Nibble) : OpcodeRow.Statement (.halt h) := by
  unfold OpcodeRow.Statement
  revert h
  decide

theorem OpcodeRow.nop : OpcodeRow.Statement .nop := rfl

end Sys2Proof.Laws
end

