-- ==== Sys2Proof/Laws/Step.lean ====
section
/-! SUPPORT. The cases of a step, each said once. -/

namespace Sys2Proof.Machine

/-- Clearing the step's reset signal keeps the outcome's kind. -/
theorem settled_next (x : Host.Outcome State Fault Refusal) (t : State) :
    settled x = .next t ↔ ∃ u, x = .next u ∧ t = clearRstSig u := by
  cases x with
  | next u => simp [settled, eq_comm]
  | fault f => simp [settled]
  | refused r => simp [settled]

/-- With nothing from outside that overrides the mode, the step is the mode's. -/
theorem step_mode (s : State) (hv : s.pins.overVdd = false)
    (hp : (s.pins.vppProgram && decide (s.cfg.part = .upd17P149)) = false) (hr : resetAsserted s = false) :
    step s = settled (modeStep s) := by
  unfold step stepCore
  rw [hv, hp, hr]
  rfl

/-- As `step_mode`, by the sample as a whole. -/
theorem step_of_mode (s : State) (h : overridden s = false) : step s = settled (modeStep s) := by
  unfold overridden at h
  simp only [Bool.or_eq_false_iff] at h
  exact step_mode s h.1.1 h.1.2 h.2

/-- A running CPU's step. -/
theorem step_run (s : State) (hv : s.pins.overVdd = false)
    (hp : (s.pins.vppProgram && decide (s.cfg.part = .upd17P149)) = false) (hr : resetAsserted s = false)
    (hm : s.mode = .run) : step s = settled (runStep s) := by
  rw [step_mode s hv hp hr]
  unfold modeStep
  rw [hm]

/-- What a running CPU does with a word that is an instruction. -/
theorem runStep_ok (s : State) (i : Instr) (hs : s.skip = false) (hd : decode s.cfg.part (romRead s s.pc) = .ok i) :
    runStep s = match exec i (afterFetch s) with
      | .next t => .next (completeStep (isEi i) (fetch s) s t)
      | .fault f => .fault f
      | .refused r => .refused r := by
  have hd' : decode s.cfg.part (fetch s) = .ok i := hd
  unfold runStep
  rw [hs, hd']
  rfl

/-- What a running CPU does with an unassigned word. -/
theorem runStep_error (s : State) (e : DecodeError) (hs : s.skip = false)
    (hd : decode s.cfg.part (romRead s s.pc) = .error e) : runStep s = .refused .unassignedEncoding := by
  have hd' : decode s.cfg.part (fetch s) = .error e := hd
  unfold runStep
  rw [hs, hd']
  rfl

/-- Every way a step can give a next state. -/
theorem step_cases (s t : State) (h : step s = .next t) :
    (t = clearRstSig (holdReset s)) ∨
    (s.mode = .run ∧ s.skip = true ∧ t = clearRstSig (skipStep s)) ∨
    (∃ i u, s.mode = .run ∧ s.skip = false ∧ exec i (afterFetch s) = .next u ∧
      t = clearRstSig (completeStep (isEi i) (fetch s) s u)) ∨
    (∃ c, s.mode = .halt c ∧ t = clearRstSig (haltCycle c s)) ∨
    (∃ c, s.mode = .stop c ∧ t = clearRstSig (stopCycle c s)) ∨
    (∃ w g, s.mode = .wait w g ∧ t = clearRstSig (waitCycle w g s)) ∨
    (∃ b o, s.mode = .held b o ∧ t = clearRstSig (releaseReset b o s)) := by
  obtain ⟨u, hu, rfl⟩ := (settled_next _ t).mp h
  unfold stepCore at hu
  split at hu
  · cases hu
  split at hu
  · cases hu
  split at hu
  · cases hu; exact .inl rfl
  unfold modeStep at hu
  split at hu
  · rename_i hm
    unfold runStep at hu
    by_cases hs : s.skip = true
    · rw [if_pos hs] at hu
      cases hu
      exact .inr (.inl ⟨hm, hs, rfl⟩)
    · rw [if_neg hs] at hu
      split at hu
      · cases hu
      · rename_i i _
        split at hu
        · rename_i v hv
          cases hu
          exact .inr (.inr (.inl ⟨i, v, hm, by simpa using hs, hv, rfl⟩))
        · cases hu
        · cases hu
  · rename_i c hm; cases hu; exact .inr (.inr (.inr (.inl ⟨c, hm, rfl⟩)))
  · rename_i c hm; cases hu; exact .inr (.inr (.inr (.inr (.inl ⟨c, hm, rfl⟩))))
  · rename_i w g hm; cases hu; exact .inr (.inr (.inr (.inr (.inr (.inl ⟨w, g, hm, rfl⟩)))))
  · rename_i b o hm; cases hu; exact .inr (.inr (.inr (.inr (.inr (.inr ⟨b, o, hm, rfl⟩)))))

end Sys2Proof.Machine
end

