-- ==== Sys2Proof/Machine/Assembler.lean ====
section
/-! DEFINITION. The assembler's built-in macros as the instructions they expand to (R164), and its mask-option directives
(R166). No part of the machine: the hardware sees the expansions and the options alone. -/

namespace Sys2Proof.Machine

/-- A symbol of type FLG: one bit of a nibble in data memory or in the register file (R164, R165). -/
structure FlagSym where
  /-- the flag is in the register file, below 40H -/
  regFile : Bool
  addr : DAddr
  bit : BitVec 2
deriving DecidableEq, Repr

/-- The bit as a mask of its nibble: `.DF.flag AND 0FH` (R165). -/
def flagMask (f : FlagSym) : Nibble := (1 : Nibble) <<< f.bit.toNat

/-- Two flags stand in one nibble. -/
def sameNibble (f g : FlagSym) : Bool := f.regFile == g.regFile && f.addr == g.addr

/-- The mask of those flags of `fs` that stand in the nibble of `f`. -/
def maskWith (fs : List FlagSym) (f : FlagSym) : Nibble :=
  fs.foldl (fun m g => if sameNibble f g then m ||| flagMask g else m) 0

/-- One flag for every nibble that `fs` names, in order of first appearance. -/
def nibblesOf (fs : List FlagSym) : List FlagSym :=
  match fs with
  | [] => []
  | f :: rest => f :: (nibblesOf rest).filter (fun g => !sameNibble f g)

/-- SP has no flag-type symbol, so no flag macro can name it (R164). -/
def isFlag (f : FlagSym) : Bool := !(f.regFile && f.addr == 0x01)

/-- The expansion `out` of a flag macro on `fs`; none where the assembler has no such macro: it takes one to four flags, none
of them a bit of SP (R164). -/
def flagMacro (fs : List FlagSym) (out : List Instr) : Option (List Instr) :=
  if 1 ≤ fs.length ∧ fs.length ≤ 4 ∧ fs.all isFlag = true then some out else none

/-- One operation on a flag's nibble: direct in data memory; in the register file PEEK, the operation on WR, POKE
(PRESUMED, log 36). -/
def onNibble (f : FlagSym) (op : DAddr → Instr) : List Instr :=
  if f.regFile then [.peek f.addr, op 0x78, .poke f.addr] else [op f.addr]

/-- `SETn flag 1, ..., flag n` (R164). -/
def macroSet (fs : List FlagSym) : Option (List Instr) :=
  flagMacro fs ((nibblesOf fs).flatMap (fun f => onNibble f (fun a => .orI a (maskWith fs f))))

/-- `CLRn flag 1, ..., flag n` (R164). -/
def macroClr (fs : List FlagSym) : Option (List Instr) :=
  flagMacro fs ((nibblesOf fs).flatMap (fun f => onNibble f (fun a => .andI a (~~~maskWith fs f))))

/-- `NOTn flag 1, ..., flag n` (R164). -/
def macroNot (fs : List FlagSym) : Option (List Instr) :=
  flagMacro fs ((nibblesOf fs).flatMap (fun f => onNibble f (fun a => .xorI a (maskWith fs f))))

/-- A skip on a flag's nibble: from the register file by way of WR (PRESUMED, log 36). -/
def skipOn (f : FlagSym) (op : DAddr → Instr) : List Instr :=
  if f.regFile then [.peek f.addr, op 0x78] else [op f.addr]

/-- `SKTn flag 1, ..., flag n` (R164): one skip, meaningful where all flags stand in one nibble; none elsewhere. -/
def macroSkt (fs : List FlagSym) : Option (List Instr) :=
  match nibblesOf fs with
  | [f] => flagMacro fs (skipOn f (fun a => .skt a (maskWith fs f)))
  | _ => none

/-- `SKFn flag 1, ..., flag n` (R164), as `macroSkt`. -/
def macroSkf (fs : List FlagSym) : Option (List Instr) :=
  match nibblesOf fs with
  | [f] => flagMacro fs (skipOn f (fun a => .skf a (maskWith fs f)))
  | _ => none

/-- An operand of INITFLG: a flag, with or without `NOT` (R164). -/
structure InitSym where
  flag : FlagSym
  /-- written with `NOT`: the flag becomes 0 -/
  negated : Bool
deriving DecidableEq, Repr

/-- The flags of an INITFLG that become 1. -/
def flagsToSet (xs : List InitSym) : List FlagSym := (xs.filter (fun x => !x.negated)).map InitSym.flag

/-- The value INITFLG writes to the nibble of `f`: the named flags as said. R164 does not say what it does to the bits that
it does not name, so those are free (log 36). -/
def initValue (xs : List InitSym) (f : FlagSym) : Nibble :=
  maskWith (flagsToSet xs) f |||
    (~~~maskWith (xs.map InitSym.flag) f &&& Config.free 4 .initflg (f.regFile.toNat * 128 + f.addr.toNat))

/-- A nibble written whole: MOV in data memory; in the register file MOV to WR and POKE (PRESUMED, log 36). -/
def writeNibble (f : FlagSym) (v : Nibble) : List Instr :=
  if f.regFile then [.movI 0x78 v, .poke f.addr] else [.movI f.addr v]

/-- `INITFLG <NOT> flag 1, ..., <NOT> flag n` (R164): every nibble that it names is written whole. -/
def macroInitflg (xs : List InitSym) : Option (List Instr) :=
  flagMacro (xs.map InitSym.flag)
    ((nibblesOf (xs.map InitSym.flag)).flatMap (fun f => writeNibble f (initValue xs f)))

/-- `BANKn` (R164): BANK becomes `n`, on these parts 0 alone; another `n` is an error of the assembler. That the expansion
is a MOV is PRESUMED (log 36). -/
def macroBank (n : Nat) : Option (List Instr) := if n = 0 then some [.movI 0x79 0] else none

/-- A mask-option directive (R166). -/
inductive MaskOption where
  /-- `OPTRES` -/
  | optRes (pullup : Bool)
  /-- `OPTP0F`, P0F1 first -/
  | optP0f (p0f1 p0f0 : Bool)
  /-- `OPTINT` -/
  | optInt (pullup : Bool)
  /-- `OPTPOC` -/
  | optPoc (use : Bool)
deriving DecidableEq, Repr

/-- What a directive says of the chip (R166, R7). -/
def MaskOption.set (o : MaskOption) (c : Config) : Config :=
  match o with
  | .optRes b => { c with optResetPullup := b }
  | .optP0f b1 b0 => { c with optP0F1Pullup := b1, optP0F0Pullup := b0 }
  | .optInt b => { c with optIntPullup := b }
  | .optPoc b => { c with optPoc := b }

end Sys2Proof.Machine
end

