-- ==== Sys2Proof/Tests/Slice0.lean ====
section
/-! SUPPORT. Tests: what `WellFormed` refuses, the word of every instruction, single steps, and a witness for the
hypotheses of every obligation that has some. The words and the expected values come from 95_test_vectors.md (its vector is
named in each docstring), the witnesses' values from the obligations. -/

namespace Sys2Proof.Tests

open Sys2Proof Sys2Proof.Machine

/-! ### Helpers -/

/-- The state after reset, running at 0100H with no request pending: the set-up of the single-instruction vectors. -/
def base : State :=
  { State.reset with mode := .run, pc := 0x100, irq := IrqSet.none, irqDly := IrqSet.none }

/-- `base` with values written to data addresses, in order. -/
def cells (l : List (DAddr × Nibble)) : State := l.foldl (fun s c => memWrite s c.1 c.2) base

/-- `s` on another part. -/
def onPart (p : Part) (s : State) : State := { s with cfg := { s.cfg with part := p } }

/-- A view of a next state; none on a fault or a refusal. -/
def seen {α : Type} (f : State → α) (x : Host.Outcome State Fault Refusal) : Option α :=
  match x with
  | .next t => some (f t)
  | .fault _ => none
  | .refused _ => none

/-- The reason of a refusal. -/
def refusal (x : Host.Outcome State Fault Refusal) : Option Refusal :=
  match x with
  | .next _ => none
  | .fault _ => none
  | .refused r => some r

/-- A view of the state after one instruction. -/
def after {α : Type} (i : Instr) (s : State) (f : State → α) : Option α := seen f (exec i s)

/-- A view of the state after one step on a word placed at PC. -/
def afterWord {α : Type} (w : Word) (s : State) (f : State → α) : Option α := seen f (step (placeWord s w))

/-- The PSW nibble. -/
def psw (s : State) : Nibble := memRead s 0x7F

/-- The flag of INT alone. -/
def intOnly : IrqSet := ⟨true, false, false, false, false⟩

/-- The flag of timer 0 alone. -/
def tm0Only : IrqSet := ⟨false, true, false, false, false⟩

/-- The flag of timer 1 alone. -/
def tm1Only : IrqSet := ⟨false, false, true, false, false⟩

/-- The flags of INT and timer 0. -/
def intAndTm0 : IrqSet := ⟨true, true, false, false, false⟩

/-! ### What `WellFormed` refuses -/

/-- R147: a page-1 BR is ill-formed on the parts without page 1, whose decoder refuses its word by name. -/
theorem test_wf_page_one :
    (Instr.brPage1 0).wf .upd17145 = false ∧ (Instr.brPage1 0).wf .upd17147 = false ∧
    decode .upd17145 0x6800 = .error .pageOneAbsent ∧ decode .upd17147 0x6FFF = .error .pageOneAbsent := by
  refine ⟨by decide, by decide, rfl, rfl⟩

/-- D10: a BTMCK_MAP that gives two codes one pulse is ill-formed. -/
theorem test_wf_btmck_map : ({ Config.default with btmck11 := .fx16384 } : Config).wf = false := by decide

/-! ### Decoding: one word of every instruction, bit by bit (part D) -/

/-- Part D: the words of the arithmetic family. -/
theorem test_decode_arithmetic :
    decodeOption .upd17149 0b0000011111111111 = some (.addR 0xF 0x7F) ∧
    decodeOption .upd17149 0b1000001000110101 = some (.addI 0x23 0x5) ∧
    decodeOption .upd17149 0b0001001000110100 = some (.addcR 0x4 0x23) ∧
    decodeOption .upd17149 0b1001001000110101 = some (.addcI 0x23 0x5) ∧
    decodeOption .upd17149 0b0011100010010000 = some (.incAr) ∧
    decodeOption .upd17149 0b0011100010000000 = some (.incIx) ∧
    decodeOption .upd17149 0b0000100000000000 = some (.subR 0x0 0x00) ∧
    decodeOption .upd17149 0b1000101000110101 = some (.subI 0x23 0x5) ∧
    decodeOption .upd17149 0b0001101010111100 = some (.subcR 0xC 0x2B) ∧
    decodeOption .upd17149 0b1001101000110101 = some (.subcI 0x23 0x5) := by decide

/-- Part D: the words of the logic family. -/
theorem test_decode_logic :
    decodeOption .upd17149 0b0011010101100111 = some (.orR 0x7 0x56) ∧
    decodeOption .upd17149 0b1011001000110101 = some (.orI 0x23 0x5) ∧
    decodeOption .upd17149 0b0010001101000101 = some (.andR 0x5 0x34) ∧
    decodeOption .upd17149 0b1010001000110101 = some (.andI 0x23 0x5) ∧
    decodeOption .upd17149 0b0010110001010110 = some (.xorR 0x6 0x45) ∧
    decodeOption .upd17149 0b1010101000110101 = some (.xorI 0x23 0x5) ∧
    decodeOption .upd17149 0b0011100001110101 = some (.rorc 0x5) := by decide

/-- Part D: the words of the test family. -/
theorem test_decode_test :
    decodeOption .upd17149 0b1111001000110101 = some (.skt 0x23 0x5) ∧
    decodeOption .upd17149 0b1111101000110101 = some (.skf 0x23 0x5) ∧
    decodeOption .upd17149 0b0100101010111100 = some (.ske 0x2B 0xC) ∧
    decodeOption .upd17149 0b0101111111110000 = some (.skne 0x7F 0x0) ∧
    decodeOption .upd17149 0b1100101000110101 = some (.skge 0x23 0x5) ∧
    decodeOption .upd17149 0b1101101000110101 = some (.sklt 0x23 0x5) := by decide

/-- Part D: the words of the transfer family. -/
theorem test_decode_transfer :
    decodeOption .upd17149 0b0100000100100011 = some (.ld 0x3 0x12) ∧
    decodeOption .upd17149 0b1100000100100011 = some (.st 0x12 0x3) ∧
    decodeOption .upd17149 0b0101001101000101 = some (.movIndDst 0x5 0x34) ∧
    decodeOption .upd17149 0b1101001101000101 = some (.movIndSrc 0x34 0x5) ∧
    decodeOption .upd17149 0b1110101000110101 = some (.movI 0x23 0x5) ∧
    decodeOption .upd17149 0b0011100000010000 = some (.movt) ∧
    decodeOption .upd17149 0b0011100011010000 = some (.pushAr) ∧
    decodeOption .upd17149 0b0011100011000000 = some (.popAr) ∧
    decodeOption .upd17149 0b0011101000111011 = some (.peek 0x2B) ∧
    decodeOption .upd17149 0b0011111100101111 = some (.poke 0x7F) ∧
    decodeOption .upd17149 0b0011100010110100 = some (.get 0x04) ∧
    decodeOption .upd17149 0b0011110010100000 = some (.put 0x40) := by decide

/-- Part D: the words of the branch family. -/
theorem test_decode_branch :
    decodeOption .upd17149 0b0110000100100011 = some (.brPage0 0x123) ∧
    decodeOption .upd17149 0b0110100100100011 = some (.brPage1 0x123) ∧
    decodeOption .upd17149 0b0011100001000000 = some (.brAr) ∧
    decodeOption .upd17149 0b1110000100100011 = some (.call 0x123) ∧
    decodeOption .upd17149 0b0011100001010000 = some (.callAr) ∧
    decodeOption .upd17149 0b0011100011100000 = some (.ret) ∧
    decodeOption .upd17149 0b0011100111100000 = some (.retsk) ∧
    decodeOption .upd17149 0b0011110011100000 = some (.reti) := by decide

/-- Part D: the words of the system family. -/
theorem test_decode_system :
    decodeOption .upd17149 0b0011100011110000 = some (.ei) ∧
    decodeOption .upd17149 0b0011100111110000 = some (.di) ∧
    decodeOption .upd17149 0b0011101011111001 = some (.stop 0x9) ∧
    decodeOption .upd17149 0b0011101111111011 = some (.halt 0xB) ∧
    decodeOption .upd17149 0b0011110011110000 = some (.nop) := by decide

/-- Part D: unassigned words. -/
theorem test_decode_unassigned :
    decodeOption .upd17149 0b0111000000000000 = none ∧
    decodeOption .upd17149 0b0111100000000000 = none ∧
    decodeOption .upd17149 0b1011100000000000 = none ∧
    decodeOption .upd17149 0b0011100000000000 = none ∧
    decodeOption .upd17149 0b0011100001100000 = none ∧
    decodeOption .upd17149 0b0011100000010001 = none ∧
    decodeOption .upd17149 0b0011100100010000 = none ∧
    decodeOption .upd17149 0b0011100101110000 = none ∧
    decodeOption .upd17149 0b0011101011100000 = none ∧
    decodeOption .upd17149 0b0011110111110000 = none ∧
    decodeOption .upd17149 0b0011100011110001 = none := by decide

/-! ### Single instructions -/

/-- V2: 9 + 7 is 0 with CY and Z. -/
theorem test_add_carry :
    after (.addR 3 0x2F) (cells [(0x03, 9), (0x2F, 7)]) (fun t => (memRead t 0x03, psw t)) = some (0, 0b0110) := by decide

/-- V4: decimal mode on operands that are no decimal digits. -/
theorem test_add_bcd :
    after (.addR 3 0x2F) (cells [(0x03, 0xF), (0x2F, 0xF), (0x7E, 1)]) (fun t => (memRead t 0x03, psw t)) =
      some (0b1100, 0b0100) := by decide

/-- V8: a result stored in the status word wins over the carry. -/
theorem test_add_psw :
    after (.addI 0x7F 0xF) (cells [(0x7F, 1)]) psw = some 0 := by decide

/-- V11: the result is judged before the store drops bit 3 of IXM. -/
theorem test_add_ixm :
    after (.addI 0x7B 1) (cells [(0x7B, 7)]) (fun t => (t.ix, psw t)) = some (0, 0) := by decide

/-- V15: 15 + 15 + 1. -/
theorem test_addc_all_ones :
    after (.addcR 3 0x2F) (cells [(0x03, 0xF), (0x2F, 0xF), (0x7F, 4)]) (fun t => (memRead t 0x03, psw t)) =
      some (0xF, 0b0100) := by decide

/-- A23: the carry of a lower digit goes into the next one. -/
theorem test_addc_immediate :
    after (.addcI 0x0E 0) (cells [(0x0E, 0xF), (0x7F, 4)]) (fun t => (memRead t 0x0E, psw t)) = some (0, 0b0110) := by decide

/-- V16: AR wraps at the width of the part, the flags stay. -/
theorem test_inc_ar :
    after .incAr (cells [(0x75, 0xF), (0x76, 0xF), (0x77, 0xF), (0x7F, 6)]) (fun t => (t.ar, psw t)) = some (0, 6) ∧
    after .incAr (onPart .upd17145 { base with ar := 0x3FF }) State.ar = some 0 := by decide

/-- V18: IX wraps at 7 bits, MPE stays. -/
theorem test_inc_ix :
    after .incIx (cells [(0x7A, 8), (0x7B, 7), (0x7C, 0xF)]) (fun t => (t.ix, memRead t 0x7A)) = some (0, 8) := by decide

/-- V21, V26: 3 - 5 borrows; with CMP = 1 nothing is stored and Z is only ever cleared. -/
theorem test_sub_borrow :
    after (.subR 3 0x2F) (cells [(0x03, 3), (0x2F, 5)]) (fun t => (memRead t 0x03, psw t)) = some (0xE, 0b0100) ∧
    after (.subR 3 0x2F) (cells [(0x03, 5), (0x2F, 5), (0x7F, 8)]) (fun t => (memRead t 0x03, psw t)) = some (5, 0b1000) ∧
    after (.subR 3 0x2F) (cells [(0x03, 5), (0x2F, 5), (0x7F, 0xA)]) (fun t => (memRead t 0x03, psw t)) = some (5, 0b1010) := by decide

/-- V24: decimal mode sets CY on an operand that is no decimal digit. -/
theorem test_sub_bcd :
    after (.subR 3 0x2F) (cells [(0x03, 0xC), (0x7E, 1)]) (fun t => (memRead t 0x03, psw t)) = some (0b1110, 0b0100) := by decide

/-- V27: 2 - 5. -/
theorem test_sub_immediate :
    after (.subI 0x2F 5) (cells [(0x2F, 2)]) (fun t => (memRead t 0x2F, psw t)) = some (0xD, 0b0100) := by decide

/-- V25: 0 - 15 - 1 is 0 with a borrow. -/
theorem test_subc_borrow :
    after (.subcR 3 0x2F) (cells [(0x2F, 0xF), (0x7F, 4)]) (fun t => (memRead t 0x03, psw t)) = some (0, 0b0110) := by decide

/-- V28: decimal 0 - 9 - 1. -/
theorem test_subc_bcd :
    after (.subcI 0x2F 9) (cells [(0x7E, 1), (0x7F, 4)]) (fun t => (memRead t 0x2F, psw t)) = some (0, 0b0110) := by decide

/-- V30: OR stores although CMP is 1. -/
theorem test_or_stores :
    after (.orR 3 0x2F) (cells [(0x03, 0b1010), (0x2F, 0b0111), (0x7F, 0b1110)])
      (fun t => (memRead t 0x03, psw t)) = some (0b1111, 0b1110) := by decide

/-- V35: setting BCD keeps the register row. -/
theorem test_or_rpl :
    after (.orI 0x7E 1) (cells [(0x7E, 0b0110)]) (fun t => (t.rpRow, t.psw.bcd)) = some (3, true) := by decide

/-- V31. -/
theorem test_and_register :
    after (.andR 3 0x2F) (cells [(0x03, 0b1010), (0x2F, 0b0101)]) (fun t => (memRead t 0x03, psw t)) = some (0, 0) := by decide

/-- V34: clearing Z and CY. -/
theorem test_and_psw :
    after (.andI 0x7F 0b1001) (cells [(0x7F, 0xF), (0x7C, 0xF)]) psw = some 0b1001 := by decide

/-- V32. -/
theorem test_xor_register :
    after (.xorR 3 0x2F) (cells [(0x03, 0b1100), (0x2F, 0b1010)]) (fun t => memRead t 0x03) = some 0b0110 := by decide

/-- V36: only bit 3 of IXH exists. -/
theorem test_xor_ixh :
    after (.xorI 0x7A 0xF) base (fun t => memRead t 0x7A) = some 8 := by decide

/-- V41, V43: SKT tests the old CMP and then clears it. -/
theorem test_skt :
    after (.skt 0x03 0b1101) (cells [(0x03, 0b1011), (0x7F, 8)]) (fun t => (t.skip, psw t)) = some (false, 0) ∧
    after (.skt 0x7F 8) (cells [(0x7F, 8)]) (fun t => (t.skip, psw t)) = some (true, 0) := by decide

/-- V44, V45. -/
theorem test_skf :
    after (.skf 0x03 0b0110) (cells [(0x03, 0b1001), (0x7F, 8)]) (fun t => (t.skip, psw t)) = some (true, 0) ∧
    after (.skf 0x03 0b1110) (cells [(0x03, 0b1001)]) State.skip = some false := by decide

/-- V46: against 7, 8 and 9, CMP kept. -/
theorem test_ske :
    after (.ske 0x03 7) (cells [(0x03, 8), (0x7F, 0b1110)]) (fun t => (t.skip, psw t)) = some (false, 0b1110) ∧
    after (.ske 0x03 8) (cells [(0x03, 8), (0x7F, 0b1110)]) (fun t => (t.skip, psw t)) = some (true, 0b1110) ∧
    after (.ske 0x03 9) (cells [(0x03, 8), (0x7F, 0b1110)]) (fun t => (t.skip, psw t)) = some (false, 0b1110) := by decide

/-- V47: against 7, 8 and 9, CMP kept. -/
theorem test_skne :
    after (.skne 0x03 7) (cells [(0x03, 8), (0x7F, 0b1110)]) (fun t => (t.skip, psw t)) = some (true, 0b1110) ∧
    after (.skne 0x03 8) (cells [(0x03, 8), (0x7F, 0b1110)]) (fun t => (t.skip, psw t)) = some (false, 0b1110) ∧
    after (.skne 0x03 9) (cells [(0x03, 8), (0x7F, 0b1110)]) (fun t => (t.skip, psw t)) = some (true, 0b1110) := by decide

/-- V48: against 7, 8 and 9, CMP kept. -/
theorem test_skge :
    after (.skge 0x03 7) (cells [(0x03, 8), (0x7F, 0b1110)]) (fun t => (t.skip, psw t)) = some (true, 0b1110) ∧
    after (.skge 0x03 8) (cells [(0x03, 8), (0x7F, 0b1110)]) (fun t => (t.skip, psw t)) = some (true, 0b1110) ∧
    after (.skge 0x03 9) (cells [(0x03, 8), (0x7F, 0b1110)]) (fun t => (t.skip, psw t)) = some (false, 0b1110) := by decide

/-- V49: against 7, 8 and 9, CMP kept. -/
theorem test_sklt :
    after (.sklt 0x03 7) (cells [(0x03, 8), (0x7F, 0b1110)]) (fun t => (t.skip, psw t)) = some (false, 0b1110) ∧
    after (.sklt 0x03 8) (cells [(0x03, 8), (0x7F, 0b1110)]) (fun t => (t.skip, psw t)) = some (false, 0b1110) ∧
    after (.sklt 0x03 9) (cells [(0x03, 8), (0x7F, 0b1110)]) (fun t => (t.skip, psw t)) = some (true, 0b1110) := by decide

/-- V60. -/
theorem test_rorc :
    after (.rorc 3) (cells [(0x03, 0b1100), (0x7F, 0b0100)]) (fun t => (memRead t 0x03, psw t)) = some (0b1110, 0) := by decide

/-- V62: in the status word the stored nibble wins. -/
theorem test_rorc_psw :
    after (.rorc 0xF) (cells [(0x7E, 0b1110), (0x7F, 0b0110)]) psw = some 0b1011 := by decide

/-- V71: the memory operand is index-modified, the register is not. -/
theorem test_ld :
    after (.ld 3 0x2F) (cells [(0x2F, 9), (0x3F, 6), (0x7B, 1), (0x7F, 1)]) (fun t => memRead t 0x03) = some 6 := by decide

/-- V72. -/
theorem test_st :
    after (.st 0x2F 3) (cells [(0x03, 7)]) (fun t => memRead t 0x2F) = some 7 := by decide

/-- V74, V76: the row comes from MP, the column from the register. -/
theorem test_mov_indirect_destination :
    after (.movIndDst 5 0x34) (cells [(0x05, 8), (0x34, 0xB), (0x7A, 8), (0x7B, 6)])
      (fun t => (memRead t 0x68, memRead t 0x38)) = some (0xB, 0) ∧
    after (.movIndDst 5 0x34) (cells [(0x05, 8), (0x35, 0xC), (0x7A, 8), (0x7B, 2), (0x7C, 1), (0x7F, 1)])
      (fun t => memRead t 0x28) = some 0xC := by decide

/-- V75: IXE without MPE modifies the row. -/
theorem test_mov_indirect_destination_row :
    after (.movIndDst 5 0x34) (cells [(0x05, 8), (0x34, 0xB), (0x35, 0xC), (0x7C, 1), (0x7F, 1)])
      (fun t => memRead t 0x38) = some 0xC := by decide

/-- V77. -/
theorem test_mov_indirect_source :
    after (.movIndSrc 0x34 5) (cells [(0x05, 8), (0x38, 0xD)]) (fun t => memRead t 0x34) = some 0xD := by decide

/-- V79: AR2 has the bits the part has. -/
theorem test_mov_fixed_bits :
    after (.movI 0x75 0xF) base State.ar = some 0xF00 ∧
    after (.movI 0x75 0xF) (onPart .upd17147 base) State.ar = some 0x700 ∧
    after (.movI 0x75 0xF) (onPart .upd17145 base) State.ar = some 0x300 := by decide

/-- V81: an index-modified address may become the status word. -/
theorem test_mov_status :
    after (.movI 0x7C 5) (cells [(0x7C, 3), (0x7F, 1)]) (fun t => (psw t, t.ix)) = some (0b0101, 3) := by decide

/-- V82: DBF, SP, the return address left behind, PC. -/
theorem test_movt :
    afterWord 0x3810 { base with ar := 0x011, rom := romLoad [] 0x011 0xABCD }
      (fun t => (dbfRead t, t.sp, t.asr.a4, t.pc)) = some (0xABCD, 5, 0x101, 0x101) := by decide

/-- V84: at SP = 0 the chip is reset. -/
theorem test_movt_full :
    after .movt { base with sp := 0 } (fun t => (t.pc, t.sp, t.mode)) = some (0, 5, .run) := by decide

/-- V86. -/
theorem test_push :
    after .pushAr { base with ar := 0x03F } (fun t => (t.sp, t.asr.a4)) = some (4, 0x03F) := by decide

/-- V87. -/
theorem test_pop :
    after .popAr { base with sp := 4, asr := ⟨0, 0, 0, 0, 0x03F⟩ } (fun t => (t.sp, t.ar)) = some (5, 0x03F) ∧
    after .popAr base (fun t => (t.pc, t.sp)) = some (0, 5) := by decide

/-- V88, V89. -/
theorem test_peek :
    after (.peek 0x01) base State.wr = some 5 ∧ after (.peek 0x7F) (cells [(0x7F, 0b1010)]) State.wr = some 0b1010 := by decide

/-- V91, V93. -/
theorem test_poke :
    after (.poke 0x01) { base with wr := 2 } State.sp = some 2 ∧
    after (.poke 0x7F) { base with wr := 0b1010 } psw = some 0b1010 := by decide

/-- V91: 6 resets the chip. -/
theorem test_poke_sp :
    after (.poke 0x01) { base with wr := 6, ar := 5 } (fun t => (t.sp, t.ar, t.pc)) = some (5, 0, 0) := by decide

/-- V95. -/
theorem test_get_ar :
    after (.get 0x40) { base with ar := 0x123 } dbfRead = some 0x0123 := by decide

/-- V100, V153: an 8-bit register leaves the upper half; TM0TM1C is 16 bits. -/
theorem test_get_serial :
    after (.get 0x01) (dbfWrite { base with sio := { base.sio with sfr := 0xA5 } } 0x1234) dbfRead = some 0x12A5 ∧
    after (.get 0x45) { base with tm0 := { base.tm0 with count := 0xF0 }, tm1 := { base.tm1 with count := 0xA4 } }
      dbfRead = some 0xA4F0 := by decide

/-- V96. -/
theorem test_put_ar :
    after (.put 0x40) (dbfWrite base 0xFFFF) State.ar = some 0xFFF ∧
    after (.put 0x40) (onPart .upd17147 (dbfWrite base 0xFFFF)) State.ar = some 0x7FF ∧
    after (.put 0x40) (onPart .upd17145 (dbfWrite base 0xFFFF)) State.ar = some 0x3FF := by decide

/-- V99, V154: an unassigned address, a modulo value of 00H. -/
theorem test_put_stops :
    refusal (exec (.put 0x00) base) = some .unassignedPeripheral ∧ refusal (exec (.put 0x02) base) = some .moduloZero := by decide

/-- V112, V113. -/
theorem test_br :
    after (.brPage1 0x7FF) base State.pc = some 0xFFF ∧
    after (.brPage0 0x7FF) (onPart .upd17145 base) State.pc = some 0x3FF := by decide

/-- V114. -/
theorem test_br_ar :
    after .brAr { base with ar := 0x03F } State.pc = some 0x03F := by decide

/-- V116: in page 1, to page 0. -/
theorem test_call :
    after (.call 0x123) { base with pc := 0x901 } (fun t => (t.sp, t.asr.a4, t.pc)) = some (4, 0x901, 0x123) := by decide

/-- V118. -/
theorem test_call_ar :
    after .callAr { base with pc := 0x101, ar := 0x820 } (fun t => (t.sp, t.asr.a4, t.pc)) = some (4, 0x101, 0x820) := by decide

/-- V119, V173. -/
theorem test_ret :
    after .ret { base with sp := 4, asr := ⟨0, 0, 0, 0, 0x101⟩ } (fun t => (t.pc, t.sp)) = some (0x101, 5) ∧
    after .ret base (fun t => (t.pc, t.sp)) = some (0, 5) := by decide

/-- V120. -/
theorem test_retsk :
    after .retsk { base with sp := 4, asr := ⟨0, 0, 0, 0, 0x101⟩ } (fun t => (t.pc, t.sp, t.skip)) = some (0x101, 5, true) := by decide

/-- V121. -/
theorem test_reti :
    after .reti { base with sp := 4, asr := ⟨0, 0, 0, 0, 0x124⟩, intsk := [⟨true, false, true, false, false⟩] }
      (fun t => (t.pc, t.sp, t.rpRow ++ BitVec.ofBool t.psw.bcd, psw t, t.intsk.length)) = some (0x124, 5, 1, 0b0100, 0) := by decide

/-- V130: no acceptance after the EI itself. -/
theorem test_ei :
    afterWord 0x38F0 { base with irq := intOnly, ip := intOnly }
      (fun t => (t.pc, t.eiPending, t.inte)) = some (0x101, true, false) := by decide

/-- V131. -/
theorem test_di :
    after .di { base with inte := true, eiPending := true } (fun t => (t.inte, t.eiPending)) = some (false, false) := by decide

/-- V142, V145: RLS low, RLS high, a prohibited operand. -/
theorem test_halt :
    after (.halt 1) { base with pins := { Pins.idle with p0f0 := .low } } State.mode = some .run ∧
    after (.halt 1) base State.mode = some (.halt 1) ∧ refusal (exec (.halt 4) base) = some .standbyOperand := by decide

/-- V140: HALT sees the request flags of one instruction earlier. -/
theorem test_halt_delayed_flags :
    after (.halt 8) { base with irqDly := intOnly, ip := intOnly }
      State.mode = some .run := by decide

/-- V144. -/
theorem test_stop :
    after (.stop 8) { base with irq := tm1Only, ip := intOnly, tm1 := ⟨true, 0, 0x37, 0x3F⟩ }
       (fun t => (t.mode, t.irq.tm1, t.tm1.count, t.adc.adcr)) =
      some (.stop 8, false, 0, 0) := by decide

/-- V146: the registers are initialised, RAM is kept. -/
theorem test_stop_zero :
    after (.stop 0) { cells [(0x20, 7)] with ports := { base.ports with dbio := 0xF }, tm0 := ⟨true, 0, 0, 0xFF⟩ }
      (fun t => (memRead t 0x20, t.ports.dbio, t.tm0.en, t.sp, t.mode)) = some (7, 0, false, 5, .stop 0) := by decide

/-- V147, V123: PC plus 1, modulo the size. -/
theorem test_nop :
    afterWord 0x3CF0 base State.pc = some 0x101 ∧ afterWord 0x3CF0 { base with pc := 0xFFF } State.pc = some 0 ∧
    afterWord 0x3CF0 (onPart .upd17145 { base with pc := 0x3FF }) State.pc = some 0 := by decide

/-! ### Steps and hardware events -/

/-- V53: a skipped CALL is consumed. -/
theorem test_skip_consumes :
    afterWord 0xE020 base State.pc = some 0x020 ∧
    seen (fun t => (t.pc, t.sp, t.skip)) (step { placeWord base 0xE020 with skip := true }) = some (0x101, 5, false) := by decide

/-- V130, V135: acceptance at the end of the instruction after the EI, by priority. -/
theorem test_acceptance :
    afterWord 0x3CF0 { base with pc := 0x101, eiPending := true, irq := intAndTm0, ip := intAndTm0 }
      (fun t => (t.pc, t.sp, t.asr.a4, t.inte, t.irq)) = some (0x005, 4, 0x102, false, tm0Only) := by decide

/-- V137: of four saved PSWORDs the oldest is lost. -/
theorem test_nesting :
    (takeInterrupt .int { base with psw := ⟨true, false, false, false, false⟩, intsk :=
      [⟨false, true, false, false, false⟩, ⟨false, false, true, false, false⟩, ⟨false, false, false, true, false⟩] }).intsk =
      [⟨true, false, false, false, false⟩, ⟨false, true, false, false, false⟩, ⟨false, false, true, false, false⟩] := by decide

/-- V150: with modulo 3 the fourth pulse matches. -/
theorem test_timer0 :
    let s := { base with tm0 := ⟨true, 0, 0, 3⟩ }
    (tm0Pulse^[3] s).tm0.count = 3 ∧ (tm0Pulse^[3] s).irq.tm0 = false ∧ (tm0Pulse^[4] s).tm0.count = 0 ∧
      (tm0Pulse^[4] s).irq.tm0 = true := by decide

/-- V152: timer 1 counts the matches of timer 0. -/
theorem test_timer_chain :
    let s := { base with tm0 := ⟨true, 0, 9, 9⟩, tm1 := ⟨true, 3, 1, 1⟩ }
    (tm0Pulse s).irq.tm1 = true ∧ (tm0Pulse s).tm1.count = 0 := by decide

/-- V37: a bit operation on a port reads the pins of its inputs, and the latch of its output. -/
theorem test_port_latch :
    after (.orI 0x73 1) { base with ports := { base.ports with dbio := 1 } } (fun t => t.ports.latD) = some 0xF := by
  have pins : ∀ free : Nibble, portLevels 1 0 ⟨0xF, 0xF⟩ 0 free = 0xE := by decide
  show some (latchOrPin 1 0 (portLevels 1 0 ⟨0xF, 0xF⟩ 0 _) ||| 1) = _
  rw [pins]
  rfl

/-- V172: column RST_C retains the control registers but for the output functions. -/
theorem test_reset_stack :
    let s := applyReset .stack { base with sp := 0, ports := { base.ports with dbio := 0xF, dbpu := 0xF }, iegmd := 2 }
    (s.pc, s.sp, s.mode, s.ports.dbio, s.ports.dbpu, s.iegmd) = (0, 5, .run, 0, 0xF, 2) := by decide

/-- A11: SET1 BCD, CLR2 Z, CY in one nibble, CLR2 Z, BCD in two. -/
theorem test_macros :
    (macroSet [⟨false, 0x7E, 0⟩]).map (List.map encode) = some [0xB7E1] ∧
    (macroClr [⟨false, 0x7F, 1⟩, ⟨false, 0x7F, 2⟩]).map (List.map encode) = some [0xA7F9] ∧
    (macroClr [⟨false, 0x7F, 1⟩, ⟨false, 0x7E, 0⟩]).map (List.map encode) = some [0xA7FD, 0xA7EE] := by decide

/-- R164: BANK0 alone, one to four flags, none of SP. -/
theorem test_macro_errors :
    (macroBank 0).isSome = true ∧ macroBank 1 = none ∧ macroSet [] = none ∧ macroNot [⟨true, 0x01, 0⟩] = none ∧
    macroSet (List.replicate 5 ⟨false, 0x7E, 0⟩) = none ∧ (macroSet (List.replicate 4 ⟨false, 0x7E, 0⟩)).isSome = true := by decide

/-- R164, 9.4.2: INITFLG TM1EN, TM1RES, NOT TM1CK1, NOT TM1CK0 writes 1100B to RF 12H. -/
theorem test_macro_initflg :
    macroInitflg [⟨⟨true, 0x12, 3⟩, false⟩, ⟨⟨true, 0x12, 2⟩, false⟩, ⟨⟨true, 0x12, 1⟩, true⟩, ⟨⟨true, 0x12, 0⟩, true⟩]
      = some [.movI 0x78 0xC, .poke 0x12] := by
  have h (x : Nibble) : (0xC : Nibble) ||| (0x0 &&& x) = 0xC := by simp
  exact congrArg (fun v => some [Instr.movI 0x78 v, .poke 0x12]) (h _)

/-- The host's interface: from reset, the placed word is the first instruction. -/
theorem test_with_fetch_word :
    seen (fun t => (t.pc, t.mode)) (step (State.withFetchWord State.reset 16 0x600F)) = some (0x00F, .run) := by decide

/-! ### Witnesses: states and operands that meet the hypotheses of each obligation -/

/-- `base` with the saved address `a` on a stack at `sp`. -/
def stacked (sp : BitVec 3) (a : PAddr) : State := { base with sp := sp, asr := ⟨a, a, a, a, a⟩ }

/-- `base` with index modification, the row pointer, or both. -/
def indexed (ixe mpe : Bool) : State := { base with mpe := mpe, psw := { Psword.zero with ixe := ixe } }

/-- `base` with the watchdog on at the count `div : cnt`. -/
def watched (div : Bool) (cnt : BitVec 7) (carry : Bool) : State :=
  { base with btm := ⟨false, 0, cnt, true, div, carry⟩ }

/-- `base` with a serial transfer set up, SI low or high. -/
def transferring (si : Bool) : State :=
  { base with
    ports := { base.ports with sioen := true }
    sio := { base.sio with ts := true }
    pins := { Pins.idle with p0d := ⟨0xF, if si then 0xF else 0⟩ } }

/-- The five sources in the order of their priority. -/
def order : List IrqSource := [.int, .tm0, .tm1, .btm, .sio]

/-- `base` with INTE, and the flags `f` pending and enabled. -/
def asking (f : IrqSet) : State := { base with inte := true, irq := f, ip := f }

/-- `base` with a NOP at PC has the invariant. -/
theorem inv_placed : Inv (placeWord base 0x3CF0) := by
  refine ⟨by decide, by decide, by decide, by decide, by decide, by decide, ?_, ?_, ?_, ?_, ?_, ?_, ?_, by decide,
    by decide, by decide, by decide, by decide, trivial, trivial, by decide, trivial, rfl⟩ <;> (unfold inRange; decide)

/-- Hypotheses of DecodeAfterEncode. -/
theorem witness_DecodeAfterEncode :
    (Instr.brPage1 0x7FF).wf .upd17149 = true ∧
    (Instr.brPage1 0).wf .upd17P149 = true ∧
    (Instr.skf 0x7F 0xF).wf .upd17145 = true := by decide

/-- Hypotheses of EncodeAfterDecode. -/
theorem witness_EncodeAfterDecode :
    decode .upd17145 0x0000 = .ok (.addR 0 0) ∧
    decode .upd17145 0xFFFF = .ok (.skf 0x7F 0xF) ∧
    decode .upd17149 0x6FFF = .ok (.brPage1 0x7FF) := ⟨rfl, rfl, rfl⟩

/-- Hypotheses of StepRunsDecoded. -/
theorem witness_StepRunsDecoded :
    let s := placeWord base 0x3810
    executesNext s ∧ decode s.cfg.part (romRead s s.pc) = .ok .movt := ⟨by unfold executesNext; decide, rfl⟩

/-- Hypotheses of UnassignedWordStops. -/
theorem witness_UnassignedWordStops :
    let s := placeWord base 0x7000
    executesNext s ∧ decode s.cfg.part (romRead s s.pc) = .error .blankOpcode := ⟨by unfold executesNext; decide, rfl⟩

/-- Hypotheses of SkippedWordDoesNothing. -/
theorem witness_SkippedWordDoesNothing :
    let s := { placeWord base 0x3810 with skip := true }
    s.mode = .run ∧ s.skip = true ∧ s.pins.overVdd = false ∧ s.pins.vppProgram = false ∧ resetAsserted s = false ∧
    s.rstSig = false ∧ s.btm.wdtEn = false ∧ s.inte = false ∧ s.eiPending = false := by decide

/-- Hypotheses of StepKeepsInvariant. -/
theorem witness_StepKeepsInvariant :
    let s := placeWord base 0x3CF0
    Inv s ∧ ∃ t, step s = .next t := ⟨inv_placed, _, rfl⟩

/-- Hypotheses of StepKeepsProgram. -/
theorem witness_StepKeepsProgram :
    ∃ t, step (placeWord base 0x3CF0) = .next t := ⟨_, rfl⟩

/-- Hypotheses of OperandAddresses. -/
theorem witness_OperandAddresses :
    (indexed false false).psw.ixe = false ∧ (indexed false false).mpe = false ∧
    (indexed true false).psw.ixe = true ∧ (indexed true false).mpe = false ∧
    (indexed true true).psw.ixe = true ∧ (indexed true true).mpe = true := by decide

/-- Hypotheses of PortReads. -/
theorem witness_PortReads :
    let out := { base with ports := { base.ports with gio := 7, cidi := 8 } }
    let pulled := { base with cfg := { base.cfg with optIntPullup := true }, pins := { Pins.idle with int := .openPin } }
    (∀ k, k < 3 → out.ports.gio.getLsbD k = true ∧ base.ports.gio.getLsbD k = false) ∧
    out.ports.cidi ≠ 0 ∧ base.ports.cidi = 0 ∧ (0 < 4 ∧ 3 < 4) ∧
    base.pins.int = .low ∧ base.pins.reset = .high ∧
    (pulled.pins.int = .openPin ∧ pulled.cfg.optIntPullup = true ∧ pulled.cfg.part ≠ .upd17P149) := by decide

/-- WriteStoresOneNibble: the addresses beside the ports, and a write to P0F. -/
theorem witness_WriteStoresOneNibble :
    notPort 0x6D ∧ notPort 0x74 ∧ memRead (memWrite base 0x6D 5) 0x6D = 5 ∧
    memWrite base 0x6F 5 = base := ⟨by unfold notPort; decide, by unfold notPort; decide, by decide, rfl⟩

/-- Hypotheses of DecimalArithmetic: sums 19 and 20, differences -10, 9, -11 and 10. -/
theorem witness_DecimalArithmetic :
    (9 : Nibble).toNat + (9 : Nibble).toNat + true.toNat ≤ 19 ∧
    20 ≤ (0xF : Nibble).toNat + (5 : Nibble).toNat + false.toNat ∧
    ((9 : Nibble).toNat + true.toNat ≤ (0 : Nibble).toNat + 10 ∧ (0 : Nibble).toNat ≤ (9 : Nibble).toNat + true.toNat + 9) ∧
    ((0 : Nibble).toNat + false.toNat ≤ (9 : Nibble).toNat + 10 ∧ (9 : Nibble).toNat ≤ (0 : Nibble).toNat + false.toNat + 9) ∧
    (0 : Nibble).toNat + 10 < (0xA : Nibble).toNat + true.toNat ∧
    (0 : Nibble).toNat + false.toNat + 9 < (0xA : Nibble).toNat := by decide

/-- Hypotheses of ArithmeticStores. -/
theorem witness_ArithmeticStores :
    base.psw.cmp = false := by decide

/-- Hypotheses of CompareModeStoresNothing. -/
theorem witness_CompareModeStoresNothing :
    (cells [(0x7F, 8)]).psw.cmp = true := by decide

/-- Hypotheses of TableReference. -/
theorem witness_TableReference :
    (inRange base.cfg base.pc ∧ 1 ≤ base.sp.toNat ∧ base.sp.toNat ≤ 5) ∧
    (inRange (stacked 1 0).cfg (stacked 1 0).pc ∧ 1 ≤ (stacked 1 0).sp.toNat ∧ (stacked 1 0).sp.toNat ≤ 5) ∧
    (stacked 0 0).sp = 0 := by unfold inRange; decide

/-- Hypotheses of AddressStackTransfers. -/
theorem witness_AddressStackTransfers :
    (1 ≤ (stacked 1 0).sp.toNat ∧ (stacked 1 0).sp.toNat ≤ 5 ∧ inRange (stacked 1 0).cfg (stacked 1 0).ar) ∧
    (1 ≤ base.sp.toNat ∧ base.sp.toNat ≤ 5 ∧ inRange base.cfg base.ar ∧ base.sp = 5) ∧
    (stacked 0 0).sp = 0 ∧
    ((stacked 4 0xFFF).sp.toNat ≤ 4 ∧ inRange (stacked 4 0xFFF).cfg (asrGet (stacked 4 0xFFF) (stacked 4 0xFFF).sp)) ∧
    ((0 : BitVec 3).toNat ≤ 4 ∧ (4 : BitVec 3).toNat ≤ 4) := by unfold inRange; decide

/-- Hypotheses of RegisterFileAlias. -/
theorem witness_RegisterFileAlias :
    0x40 ≤ (0x40 : DAddr).toNat ∧ 0x40 ≤ (0x7F : DAddr).toNat := by decide

/-- Hypotheses of ControlRegistersReadBack. -/
theorem witness_ControlRegistersReadBack :
    ((0x0B, 0x9) : DAddr × Nibble) ∈ ([(0x0B, 0x9), (0x3F, 0x1)] : List (DAddr × Nibble)) ∧
    ((0x3F : DAddr).toNat < 0x40 ∧ (0x3F : DAddr) ≠ 0x0B) ∧
    notPort 0x6D ∧ notPort 0x74 := by unfold notPort; decide

/-- Hypotheses of ControlRegistersFixed. -/
theorem witness_ControlRegistersFixed :
    let used : List DAddr := [0x01, 0x02, 0x03, 0x0B, 0x0C, 0x0D, 0x0F, 0x11, 0x12, 0x13, 0x1B, 0x1C, 0x1F, 0x20, 0x21, 0x22,
      0x2B, 0x2C, 0x2E, 0x2F, 0x3B, 0x3C, 0x3D, 0x3E, 0x3F]
    ((0x00 : DAddr).toNat < 0x40 ∧ (0x00 : DAddr) ∉ used) ∧
    ((0x3A : DAddr).toNat < 0x40 ∧ (0x3A : DAddr) ∉ used) ∧
    used.length = 25 := by decide

/-- Hypotheses of StackPointerPoke. -/
theorem witness_StackPointerPoke :
    (({ base with wr := 5 } : State).wr.extractLsb' 0 3).toNat ≤ 5 ∧
    6 ≤ (({ base with wr := 6 } : State).wr.extractLsb' 0 3).toNat := by decide

/-- Hypotheses of GetLoadsDataBuffer. -/
theorem witness_GetLoadsDataBuffer :
    base.sio.ts = false := by decide

/-- Hypotheses of PutWritesPeripheral. -/
theorem witness_PutWritesPeripheral :
    let s := dbfWrite { base with adc := { base.adc with soft := true } } 0x0101
    s.sio.ts = false ∧ s.sio.tainted = false ∧
    (dbfRead s).extractLsb' 0 8 ≠ 0 ∧ s.adc.soft = true ∧ base.adc.soft = false := by decide

/-- Hypotheses of CallsPushAndJump. -/
theorem witness_CallsPushAndJump :
    (1 ≤ (stacked 1 0).sp.toNat ∧ (stacked 1 0).sp.toNat ≤ 5 ∧ inRange (stacked 1 0).cfg (stacked 1 0).pc) ∧
    (base.sp = 5 ∧ inRange base.cfg base.pc) ∧
    (stacked 0 0).sp = 0 := by unfold inRange; decide

/-- Hypotheses of ReturnsPop. -/
theorem witness_ReturnsPop :
    let s := { stacked 4 0xFFF with intsk := [Psword.zero] }
    s.sp.toNat ≤ 4 ∧ inRange s.cfg (asrGet s s.sp) ∧
    s.intsk = Psword.zero :: [] ∧ (stacked 4 0xFFF).intsk = [] ∧ base.sp = 5 ∧
    inRange (stacked 0 0xFFF).cfg (asrGet (stacked 0 0xFFF) (stacked 0 0xFFF).sp) := by unfold inRange; decide

/-- Hypotheses of EnableIsLate. -/
theorem witness_EnableIsLate :
    base.rstSig = false ∧ base.skip = false ∧ base.mode = .run ∧ overridden base = false ∧
    ({ base with skip := true } : State).skip = true ∧
    isRunning ({ base with mode := .halt 8 } : State).mode = false ∧
    overridden { base with pins := { Pins.idle with reset := .low } } = true := by decide

/-- Hypotheses of PriorityOfRequests. -/
theorem witness_PriorityOfRequests :
    let last := asking ⟨false, false, false, false, true⟩
    base.inte = false ∧ (asking IrqSet.none).inte = true ∧
    (∀ x ∈ order, (asking IrqSet.none).irq.get x = true → (asking IrqSet.none).ip.get x = false) ∧
    (last.inte = true ∧ last.irq.get (order.getD 4 .sio) = true ∧ last.ip.get (order.getD 4 .sio) = true) ∧
    (∀ j, j < 4 → (last.irq.get (order.getD j .sio) && last.ip.get (order.getD j .sio)) = false) ∧
    ((asking intAndTm0).irq.get (order.getD 0 .sio) = true ∧ (asking intAndTm0).ip.get (order.getD 0 .sio) = true) := by decide

/-- Hypotheses of TakingAnInterrupt. -/
theorem witness_TakingAnInterrupt :
    (1 ≤ (stacked 1 0).sp.toNat ∧ (stacked 1 0).sp.toNat ≤ 5 ∧ inRange (stacked 1 0).cfg (stacked 1 0).pc) ∧
    (base.sp.toNat = 5 ∧ base.rstSig = false ∧ base.btm.wdtEn = false) ∧
    IrqSource.sio ≠ IrqSource.int ∧
    (stacked 0 0).sp = 0 := by unfold inRange; decide

/-- Hypotheses of InterruptThenReturn. -/
theorem witness_InterruptThenReturn :
    let s := { base with intsk := [Psword.zero, Psword.zero] }
    1 ≤ s.sp.toNat ∧ s.sp.toNat ≤ 5 ∧ inRange s.cfg s.pc ∧ s.intsk.length ≤ 2 := by unfold inRange; decide

/-- Hypotheses of HaltEntersOrIsIgnored. -/
theorem witness_HaltEntersOrIsIgnored :
    (0xB : Nibble).getLsbD 2 = false ∧ (0x4 : Nibble).getLsbD 2 = true ∧
    haltRelease base 8 base.irqDly = false ∧ haltRelease { base with irqDly := tm1Only } 2 tm1Only = true := by decide

/-- Hypotheses of StopEntersOrIsIgnored. -/
theorem witness_StopEntersOrIsIgnored :
    let cascade := { base with tm1 := { base.tm1 with ck := 3 } }
    stopRelease base 8 base.irqDly = false ∧ stopRelease base 9 base.irqDly = false ∧ base.tm1.ck ≠ 3 ∧
    stopRelease { base with irqDly := intOnly, ip := intOnly } 8 intOnly = true ∧
    stopRelease { base with pins := { Pins.idle with p0f0 := .low } } 9 IrqSet.none = true ∧
    (stopRelease cascade 8 cascade.irqDly = false ∧ cascade.tm1.ck = 3) := by decide

/-- Hypotheses of StopZeroInitialises. -/
theorem witness_StopZeroInitialises :
    base.sio.tainted = false := by decide

/-- Hypotheses of StandbyCyclesWait. -/
theorem witness_StandbyCyclesWait :
    let h := { base with mode := .halt 8 }
    let c := { base with mode := .stop 9 }
    let r := { h with pins := { Pins.idle with reset := .low } }
    let woken := { h with irq := tm0Only, ip := tm0Only }
    (overridden h = false ∧ h.mode = .halt 8 ∧ h.rstSig = false ∧ h.btm.wdtEn = false ∧ h.inte = false) ∧
    haltRelease (clockedCycle h) 8 (clockedCycle h).irq = false ∧ overridden r = true ∧
    haltRelease (clockedCycle woken) 8 (clockedCycle woken).irq = true ∧ overridden (clockedCycle woken) = false ∧
    (overridden c = false ∧ c.mode = .stop 9 ∧ c.tm0.ck ≠ 3) ∧
    stopRelease (stoppedCycle c) 9 (stoppedCycle c).irq = false ∧
    stopRelease (stoppedCycle { c with pins := { Pins.idle with p0f0 := .low } }) 9 IrqSet.none = true := by decide

/-- StandbyCyclesWait: an overflow of the watchdog in HALT. -/
theorem witness_HaltWatchdogReset :
    let h := { watched true 0x3F true with mode := .halt 8, prescaler := 0x3FF }
    overridden h = false ∧ h.mode = .halt 8 ∧ h.rstSig = false ∧ (clockedCycle h).rstSig = true := by decide

/-- Hypotheses of WaitsEnd. -/
theorem witness_WaitsEnd :
    let on := fun (w : WaitFor) (n : Nat) => ({ base with mode := .wait w n } : State)
    let last := { on .stopRelease 0 with tm1 := ⟨true, 2, 0xFF, 0xFF⟩ }
    base.tm1.count = 0 ∧ 255 ≤ (if WaitFor.resetA = .stopRelease then base.tm1.modulo.toNat else 255) ∧
    ({ base with tm1 := { base.tm1 with modulo := 0x3F } } : State).tm1.modulo.toNat = 63 ∧
    WaitFor.stopRelease ≠ .resetB ∧ State.reset.irq.tm1 = true ∧
    (overridden (on .resetB 1) = false ∧ (on .resetB 1).mode = .wait .resetB (0 + 1)) ∧
    (overridden (on .resetA 0) = false ∧ (on .resetA 0).mode = .wait .resetA 0 ∧ (on .resetA 0).rstSig = false) ∧
    ((on .resetA 0).btm.wdtEn = false ∧ (clockedCycle (on .resetA 0)).mode = .wait .resetA 0) ∧
    ((clockedCycle last).mode = .run ∧ overridden (clockedCycle last) = false) ∧
    overridden (clockedCycle { last with pins := { Pins.idle with reset := .low } }) = true := by decide

/-- Hypotheses of ResetTable, at a running state with some of what the columns retain. -/
theorem witness_ResetTable :
    let t := fun c => applyReset c { State.reset with mode := .run, sp := 3, ip := tm0Only, wr := 9 }
    ResetCause.wdt ≠ .rstA ∧ ResetCause.stack ≠ .rstA ∧ ResetCause.rstB ≠ .rstA ∧
    ((t .rstA).ip, (t .rstB).ip, (t .rstB).wr, (t .wdt).btm.cnt) = (IrqSet.none, tm0Only, 9, 0x40) ∧
    ((0x0B : DAddr).toNat < 0x0C ∧ (0x10 ≤ (0x10 : DAddr).toNat ∧ (0x6D : DAddr).toNat ≤ 0x6D)) := by decide

/-- Hypotheses of ResetSignalOverrides. -/
theorem witness_ResetSignalOverrides :
    let low := fun m => ({ base with mode := m, pins := { Pins.idle with reset := .low } } : State)
    let poc := { base with cfg := { base.cfg with optPoc := true }, pins := { Pins.idle with vddLow := true } }
    let held := { base with mode := .held true true }
    (∀ m, (low m).pins.overVdd = false ∧ (low m).pins.vppProgram = false ∧ (low m).pins.reset = .low ∧ (low m).mode = m) ∧
    (poc.pins.overVdd = false ∧ poc.pins.vddLow = true ∧ poc.cfg.optPoc = true ∧ poc.cfg.part ≠ .upd17P149) ∧
    poc.mode = .run ∧ held.mode = .held true true ∧ resetAsserted held = false := ⟨fun _ => ⟨rfl, rfl, rfl, rfl⟩, by decide, by decide⟩

/-- Hypotheses of TimerPeriod. -/
theorem witness_TimerPeriod :
    let s := { base with tm0 := ⟨true, 0, 0, 0xFF⟩ }
    let c := { s with tm1 := ⟨true, 3, 0, 2⟩ }
    s.tm0.en = true ∧ s.tm0.count = 0 ∧ 255 ≤ s.tm0.modulo.toNat ∧ 255 = s.tm0.modulo.toNat ∧ s.tm1.ck ≠ 3 ∧
    s.mode = .run ∧ s.tm1.en = true ∧ s.tm1.count = 0 ∧ 255 = s.tm1.modulo.toNat ∧
    base.tm0.en = false ∧ ({ base with tm1 := { base.tm1 with en := false } } : State).tm1.en = false ∧
    (c.mode = .run ∧ c.tm0.en = true ∧ c.tm1.en = true ∧ c.tm1.ck = 3 ∧ c.tm0.count = 0 ∧ c.tm1.count = 0) ∧
    2 ≤ c.tm1.modulo.toNat ∧ 3 = c.tm1.modulo.toNat + 1 := by decide

/-- Hypotheses of IntervalTimer. -/
theorem witness_IntervalTimer :
    base.btm.wdtEn = false ∧ base.btm.cnt = 0 ∧ base.irq.btm = false := by decide

/-- Hypotheses of TimerModeWrites. -/
theorem witness_TimerModeWrites :
    ({ base with wr := 4 } : State).wr.getLsbD 2 = true ∧ base.wr.getLsbD 2 = false ∧
    (base.tm0.en = true ∨ base.wr.getLsbD 3 = false) ∧ (base.tm1.en = true ∨ base.wr.getLsbD 3 = false) := by decide

/-- Hypotheses of WatchdogWrites. -/
theorem witness_WatchdogWrites :
    let on := { watched false 8 true with wr := 9 }
    let late := { base with wr := 9, btm := { base.btm with cnt := 8 } }
    on.btm.wdtEn = true ∧ on.wr.getLsbD 3 = true ∧ on.wr.getLsbD 0 = true ∧ (wdtCount on.btm).toNat = 8 ∧
    base.wr.getLsbD 3 = false ∧ base.wr.getLsbD 0 = false ∧ base.btm.wdtEn = false ∧
    (wdtCount (watched true 0x3F true).btm).toNat = 191 ∧ (wdtCount (watched true 0x40 true).btm).toNat = 192 ∧
    (watched false 7 false).btm.wdtEn = true ∧ (wdtCount (watched false 7 false).btm).toNat < 8 ∧
    late.btm.wdtEn = false ∧ ¬ late.btm.cnt.toNat < 8 ∧ (7 : BitVec 7).toNat < 8 ∧
    (writeWdt on 8).btm.wdtCarry = false ∧ (writeWdt (watched true 0x40 true) 8).btm.wdtCarry = true ∧
    (writeWdt (watched false 7 false) 9).btm.wdtCarry = true := by decide

/-- Hypotheses of WatchdogResets. -/
theorem witness_WatchdogResets :
    let s := fun (cnt : BitVec 7) (p : BitVec 10) => ({ watched true cnt true with prescaler := p } : State)
    (s 0x3F 0x3FF).rstSig = false ∧ (s 0x3F 0x3FF).btm.wdtEn = true ∧ base.btm.wdtEn = false ∧
    (btmPulse (s 0x3F 0)).rstSig = true ∧ (btmPulse (watched true 0x3F false)).rstSig = false ∧
    (btmPulse (s 0x3E 0)).rstSig = false ∧ (btmPulse (s 0x3E 0)).btm.cnt = 0x3F ∧
    wdtResetsNext (s 0x3F 0x3FF) = true ∧ wdtResetsNext (s 0x3F 0x3FE) = false ∧
    wdtResetsNext (s 0x3E 0x3FF) = false ∧ btmPulseNext (s 0x3E 0x3FF) = true ∧ btmPulseNext (s 0x3E 0x3FE) = false ∧
    (btmPulse (watched true 0x7F false)).btm.wdtDiv = false ∧ (btmPulse (watched true 0x7F false)).btm.wdtCarry = true ∧
    (btmPulse (watched false 0x7F false)).btm.wdtDiv = true ∧ (btmPulse (watched false 7 false)).btm.wdtCarry = false := by decide

/-- Hypotheses of ContinuousConversion. -/
theorem witness_ContinuousConversion :
    base.adc.soft = false ∧ ({ base with wr := 1 } : State).wr.getLsbD 0 = true ∧ 24 < 25 := by decide

/-- Hypotheses of SingleComparison. -/
theorem witness_SingleComparison :
    let s := { base with wr := 1, adc := { base.adc with soft := true } }
    s.adc.soft = true ∧ s.wr.getLsbD 0 = true ∧ 2 < 3 ∧ 3 ≤ 3 := by decide

/-- Hypotheses of ConverterRegisters. -/
theorem witness_ConverterRegisters :
    let s := { base with adc := { base.adc with seq := .continuous 24 false } }
    let u := { base with adc := { base.adc with seq := .single 2 false } }
    base.wr.getLsbD 0 = false ∧ base.adc.seq = .idle ∧ s.adc.seq = .continuous 24 false ∧ u.adc.seq = .single 2 false := by decide

/-- Hypotheses of SerialTransfer. -/
theorem witness_SerialTransfer :
    ∀ si : Bool, let s := transferring si
    s.ports.sioen = true ∧ s.sio.tainted = false ∧ s.sio.cnt = 0 ∧ s.sio.ts = true ∧
      s.pins.p0d.driven.getLsbD 2 = true ∧ s.pins.p0d.level.getLsbD 2 = si ∧ s.mode = .run ∧ 7 < 8 := by decide

/-- Hypotheses of SerialStartAndStop. -/
theorem witness_SerialStartAndStop :
    let s := { transferring true with wr := 8 }
    s.wr.getLsbD 3 = true ∧ s.ports.sioen = true ∧ base.ports.sioen = false ∧ base.wr.getLsbD 3 = false ∧ s.sio.tainted = false := by decide

/-- Hypotheses of IntEdges. -/
theorem witness_IntEdges :
    ({ base with wr := 6 } : State).wr.extractLsb' 0 2 ≠ 3 ∧ ({ base with wr := 7 } : State).wr.extractLsb' 0 2 = 3 := by decide

/-- StepRunsDecoded, the time of an instruction: each case of it. -/
theorem witness_StepRunsDecoded_time :
    base.rstSig = false ∧ base.mode = .run ∧
    (clockedCycle base).rstSig = false ∧ overridden (clockedCycle base) = false ∧
    ({ base with mode := .stop 9 } : State).rstSig = false ∧
    ({ base with rstSig := true } : State).rstSig = true ∧
    overridden (clockedCycle { base with inputs := [{ Pins.idle with reset := .low }] }) = true ∧
    (clockedCycle { watched true 0x3F true with prescaler := 0x3FF }).rstSig = true := by decide

/-- StandbyCyclesWait and SkippedWordDoesNothing, what a clocked cycle does. -/
theorem witness_StandbyCyclesWait_cycle :
    let p := { Pins.idle with int := .high }
    let c := fun q : AdcSeq => ({ base with adc := { base.adc with seq := q } } : State)
    ({ base with inputs := [p] } : State).inputs = p :: [] ∧ base.inputs = [] ∧ base.btm.wdtEn = false ∧
    (clockedCycle { base with inputs := [p] }).irq.int = true ∧ (clockedCycle base).irq.int = false ∧
    ((c .idle).adc.seq = .idle ∧ (c (.continuous 24 false)).adc.seq = .continuous 24 false) ∧
    (c (.single 2 false)).adc.seq = .single 2 false ∧ (c (.single 1 true)).adc.seq = .single 1 true ∧
    overridden (nextSample { placeWord base 0x3810 with skip := true }) = false := by decide

/-- StandbyCyclesWait, a cycle of STOP: a transfer by an external clock, an edge of INT. -/
theorem witness_StandbyCyclesWait_stop :
    let s := { transferring true with mode := .stop 9 }
    let c := { base with
      mode := .stop 9, tm0 := ⟨true, 3, 0, 9⟩, inputs := [{ Pins.idle with int := .high }] }
    (overridden s = false ∧ s.sio.ts = true ∧ s.sio.ck = 0 ∧ s.sio.tainted = false ∧ s.ports.sioen = true) ∧
    (base.sio.ts = false ∧ ({ s with sio := { s.sio with ck := 1 } } : State).sio.ck ≠ 0) ∧
    overridden c = false ∧ c.mode = .stop 9 ∧ tm0EdgeNext c = true ∧
    (stoppedCycle c).tm0.count = 1 := by decide

/-- WaitsEnd: the pulse that finds timer 1 at the last value ends the wait; one before it counts. -/
theorem witness_WaitsEnd_count :
    let s := { base with mode := .wait .resetA 0, tm1 := ⟨true, 0, 0xFF, 0xFF⟩, prescaler := 7 }
    let r := { base with mode := .wait .stopRelease 0, tm1 := ⟨false, 0, 3, 4⟩, prescaler := 7 }
    (overridden s = false ∧ s.mode = .wait .resetA 0 ∧ s.rstSig = false ∧ s.btm.wdtEn = false) ∧
    ((clockedCycle s).mode = .run ∧ (clockedCycle { s with prescaler := 6 }).mode = .wait .resetA 0) ∧
    ((clockedCycle r).tm1.count = 4 ∧ (clockedCycle { r with prescaler := 6 }).tm1.count = 3) := by decide

/-- TimerPeriod: a pulse comes at the multiple and not beside it (R362). -/
theorem witness_TimerPeriod_pulse :
    let s := fun (k : BitVec 2) (p : BitVec 10) =>
      ({ base with tm0 := ⟨true, k, 0, 9⟩, tm1 := ⟨true, k, 0, 9⟩, prescaler := p } : State)
    ((s 0 0).btm.wdtEn = false ∧ (s 0 0).mode = .run ∧ ({ s 0 0 with mode := .halt 8 } : State).mode = .halt 8) ∧
    ((clockedCycle (s 0 7)).tm1.count = 1 ∧ (clockedCycle (s 0 6)).tm1.count = 0) ∧
    (clockedCycle (s 0 6)).tm0.count = 1 ∧
    ((clockedCycle (s 1 31)).tm0.count = 1 ∧ (clockedCycle (s 1 15)).tm0.count = 0) ∧
    ((clockedCycle (s 1 511)).tm1.count = 1 ∧ (clockedCycle (s 1 255)).tm1.count = 0) ∧
    ((clockedCycle (s 2 3)).tm0.count = 1 ∧ (clockedCycle (s 2 1)).tm0.count = 0) ∧
    (clockedCycle (s 3 0)).tm0.count = 0 := by decide

/-- IntervalTimer: at the count 1024 of the prescaler every selectable pulse comes. -/
theorem witness_IntervalTimer_pulse :
    let s := fun (k : BitVec 2) (p : BitVec 10) => ({ base with btm := { base.btm with ck := k }, prescaler := p } : State)
    ((s 3 0).btm.wdtEn = false ∧ (s 3 0).cfg.btmck10 ≠ .fx16384) ∧
    (clockedCycle (s 0 0x3FF)).btm.cnt = 1 ∧ (clockedCycle (s 0 0x3FE)).btm.cnt = 0 ∧
    ((clockedCycle (s 1 0x3FF)).btm.cnt = 1 ∧ (clockedCycle (s 2 0x3FF)).btm.cnt = 1) := by decide

/-- TimerModeWrites: a start from the stopped state, the divided clock low and high, and fx/16 and INT. -/
theorem witness_TimerModeWrites_start :
    let s := { base with wr := 9, prescaler := 15, tm0 := ⟨false, 0, 0, 9⟩, tm1 := ⟨false, 0, 0, 9⟩ }
    s.wr.getLsbD 2 = false ∧ s.wr.getLsbD 3 = true ∧ s.tm0.en = false ∧ s.tm1.en = false ∧ s.mode = .run ∧
    (writeTm0Mode s 9).tm0.count = 1 ∧ (writeTm0Mode { s with prescaler := 16 } 9).tm0.count = 0 ∧
    (writeTm1Mode s 9).tm1.count = 1 ∧ (writeTm1Mode { s with prescaler := 256 } 9).tm1.count = 0 ∧
    (writeTm0Mode s 8).tm0.count = 0 ∧ (writeTm0Mode s 11).tm0.count = 0 := by decide

/-- SerialTransfer, the clock of a transfer (R411). -/
theorem witness_SerialTransfer_clock :
    let s := fun (k : BitVec 2) (p : BitVec 10) =>
      ({ transferring true with sio := { (transferring true).sio with ck := k }, prescaler := p } : State)
    ((s 0 0).btm.wdtEn = false ∧ (s 0 0).sio.ts = true ∧ (s 0 0).sio.ck = 0 ∧ base.sio.ts = false) ∧
    ((clockedCycle (s 2 7)).sio.sckLow = true ∧ (clockedCycle (s 2 6)).sio.sckLow = false) ∧
    ((clockedCycle (s 3 63)).sio.sckLow = true ∧ (clockedCycle (s 3 31)).sio.sckLow = false) ∧
    ((clockedCycle (s 1 0)).sio.cnt = 1 ∧ (clockedCycle (s 2 3)).sio.cnt = 0) := by decide

/-- SkippedWordDoesNothing: a skipped word, a request that its end accepts, the watchdog on. -/
theorem witness_SkippedWordDoesNothing_end :
    let s := { asking tm0Only with skip := true, eiPending := true, btm := (watched true 0x3F true).btm }
    s.mode = .run ∧ s.skip = true ∧ overridden s = false ∧ s.inte = true ∧
    s.irq.tm0 = true ∧ s.ip.tm0 = true ∧ (skipStep { s with btm := base.btm }).pc ≠ (s.pc + 1) &&& s.cfg.part.addrMask := by decide

/-- StandbyCyclesWait, WaitsEnd, TimerPeriod, IntervalTimer, SerialTransfer: cycles with the watchdog on. -/
theorem witness_WatchdogOn :
    wdtResetsNext (watched true 0x3F true) = false ∧ wdtResetsNext base = false ∧
    wdtResetsNext { watched true 0x3F true with mode := .halt 8 } = false ∧
    wdtResetsNext { transferring true with btm := (watched false 3 true).btm } = false ∧
    wdtResetsNext { watched true 0x3F true with mode := .wait .stopRelease 0 } = false ∧
    wdtResetsNext { watched true 0x3F true with mode := .wait .stopRelease 0, prescaler := 0x3FF } = true ∧
    overridden { watched true 0x3F true with mode := .wait .stopRelease 0, prescaler := 0x3FF } = false := by decide

end Sys2Proof.Tests
end

section
/-! The invariant of a step (O9, O10): what a run keeps between its steps, said of the states inside a step, and one lemma
per operation that a step is made of. -/

namespace Sys2Proof.Machine

/-! ### The invariant inside a step -/

/-- `s` as it would stand between steps: no internal reset pending, and EI_PENDING consumed, as `endOfStep` leaves it. -/
def asSettled (s : State) : State := { s with eiPending := false, rstSig := false }

/-- The invariant inside a step: a reset signal and a fresh EI may be pending; where a reset was raised the CPU runs. -/
structure InvInside (s : State) : Prop where
  inv : Inv (asSettled s)
  running : s.rstSig = true → s.mode = .run

theorem modeLegal_run (s : State) (h : s.mode = .run) : modeLegal s := by
  unfold modeLegal
  rw [h]
  trivial

theorem quietUnlessRunning_run (s : State) (h : s.mode = .run) : quietUnlessRunning s := by
  unfold quietUnlessRunning
  rw [h]
  trivial

/-- A pending EI is no obstacle to `quietUnlessRunning`. -/
theorem quietUnlessRunning_settled (s : State) (h : quietUnlessRunning s) : quietUnlessRunning (asSettled s) := by
  unfold quietUnlessRunning asSettled at *
  cases hm : s.mode <;> simp_all

/-- With no EI pending nothing but the reset signal is settled. -/
theorem quietUnlessRunning_of_settled (s : State) (h : quietUnlessRunning (asSettled s)) (he : s.eiPending = false) :
    quietUnlessRunning s := by
  unfold quietUnlessRunning asSettled at *
  cases hm : s.mode <;> simp_all

theorem Inv.inside {s : State} (h : Inv s) : InvInside s where
  inv := { h with quiet := quietUnlessRunning_settled s h.quiet, rst := rfl }
  running hr := by rw [h.rst] at hr; cases hr

/-- The end of a step: clearing the reset signal gives the invariant back, where no EI or skip is left outside RUN. -/
theorem InvInside.settle {s : State} (h : InvInside s) (hq : quietUnlessRunning s) : Inv (clearRstSig s) :=
  { h.inv with quiet := hq, rst := rfl }

/-- The invariant of a running CPU, whatever the reset signal. -/
def RunInv (s : State) : Prop := s.mode = .run ∧ Inv { s with rstSig := false }

theorem RunInv.inside {s : State} (h : RunInv s) : InvInside s where
  inv := { h.2 with quiet := quietUnlessRunning_run _ h.1, rst := rfl }
  running _ := h.1

theorem InvInside.run {s : State} (h : InvInside s) (hm : s.mode = .run) : RunInv s :=
  ⟨hm, { h.inv with quiet := quietUnlessRunning_run _ hm, rst := rfl }⟩

/-! ### The invariant and the operations of an instruction -/

theorem inRange_zero (c : Config) : inRange c 0 := by
  unfold inRange
  exact BitVec.zero_and

theorem inRange_vector (c : Config) (x : IrqSource) : inRange c x.vector := by
  unfold inRange
  cases c.part <;> cases x <;> rfl

/-- Every register of the address stack is within the part. -/
def asrInRange (c : Config) (t : AddrStack) : Prop :=
  inRange c t.a0 ∧ inRange c t.a1 ∧ inRange c t.a2 ∧ inRange c t.a3 ∧ inRange c t.a4

theorem asrInRange_put (c : Config) (t : AddrStack) (k : BitVec 3) (v : PAddr) (h : asrInRange c t)
    (hv : inRange c v) : asrInRange c (t.put k v) := by
  obtain ⟨h0, h1, h2, h3, h4⟩ := h
  unfold AddrStack.put
  split
  · exact ⟨hv, h1, h2, h3, h4⟩
  · exact ⟨h0, hv, h2, h3, h4⟩
  · exact ⟨h0, h1, hv, h3, h4⟩
  · exact ⟨h0, h1, h2, hv, h4⟩
  · exact ⟨h0, h1, h2, h3, hv⟩
  · exact ⟨h0, h1, h2, h3, h4⟩

theorem inv_withRam {s : State} (h : Inv s) (m : Memory) (hm : ramForm m) : Inv { s with ram := m } := by
  obtain ⟨form, size, nibbles⟩ := hm
  exact { h with ramForm := form, ramSize := size, ramNibbles := nibbles }

theorem ramForm_of_inv {s : State} (h : Inv s) : ramForm s.ram := ⟨h.ramForm, h.ramSize, h.ramNibbles⟩

theorem asrInRange_of_inv {s : State} (h : Inv s) : asrInRange s.cfg s.asr := ⟨h.asr0, h.asr1, h.asr2, h.asr3, h.asr4⟩

theorem inv_withStack {s : State} (h : Inv s) (k : BitVec 3) (t : AddrStack) (hk : k.toNat ≤ 5)
    (ht : asrInRange s.cfg t) : Inv { s with sp := k, asr := t } := by
  obtain ⟨h0, h1, h2, h3, h4⟩ := ht
  exact { h with sp := hk, asr0 := h0, asr1 := h1, asr2 := h2, asr3 := h3, asr4 := h4 }

/-- What a data-memory write keeps of AR's range: AR2's missing bits are dropped, AR1 and AR0 every part has (R34). -/
theorem inv_memWrite (s : State) (a : DAddr) (v : Nibble) (h : Inv s) : Inv (memWrite s a v) := by
  have hram := ramForm_memWrite s a v (ramForm_of_inv h)
  unfold memWrite at hram ⊢
  generalize dloc a = l at hram ⊢
  cases l
  case ram => exact inv_withRam h _ hram
  case ar2 => exact { h with ar := inRange_mask _ _ }
  case ar1 => exact { h with ar := inRange_low _ s.ar _ h.ar (ar1_parts s.ar v).2.2 }
  case ar0 => exact { h with ar := inRange_low _ s.ar _ h.ar (ar0_parts s.ar v).2.2 }
  all_goals exact { h with }

theorem runInv_memWrite (s : State) (a : DAddr) (v : Nibble) (h : RunInv s) : RunInv (memWrite s a v) := by
  refine ⟨(memWrite_mode s a v).trans h.1, ?_⟩
  have e : ({ memWrite s a v with rstSig := false } : State) = memWrite { s with rstSig := false } a v := by
    unfold memWrite
    generalize dloc a = l
    cases l <;> rfl
  rw [e]
  exact inv_memWrite _ a v h.2

theorem runInv_psw (s : State) (p : Psword) (h : RunInv s) : RunInv { s with psw := p } :=
  ⟨h.1, { h.2 with }⟩

theorem runInv_arithFinish (s : State) (a : DAddr) (x : AluOut) (h : RunInv s) : RunInv (arithFinish s a x) := by
  unfold arithFinish
  split
  · exact runInv_psw s _ h
  · exact runInv_memWrite _ a _ (runInv_psw s _ h)

theorem runInv_setPc (s : State) (v : PAddr) (h : RunInv s) : RunInv (setPc s v) :=
  ⟨h.1, { h.2 with pc := inRange_mask _ _ }⟩

theorem runInv_setAr (s : State) (v : PAddr) (h : RunInv s) : RunInv (setAr s v) :=
  ⟨h.1, { h.2 with ar := inRange_mask _ _ }⟩

theorem runInv_skip (s : State) (b : Bool) (h : RunInv s) : RunInv { s with skip := b } :=
  ⟨h.1, { h.2 with quiet := quietUnlessRunning_run _ h.1 }⟩

theorem runInv_skipIf (s : State) (c : Bool) (h : RunInv s) : RunInv (skipIf s c) := by
  unfold skipIf
  split
  · exact runInv_skip s true h
  · exact h

theorem runInv_dbfWrite (s : State) (w : Word) (h : RunInv s) : RunInv (dbfWrite s w) :=
  ⟨h.1, inv_withRam h.2 _ (ramForm_dbfWrite s w (ramForm_of_inv h.2 :))⟩

theorem runInv_dbfWriteLow (s : State) (b : Byte) (h : RunInv s) : RunInv (dbfWriteLow s b) :=
  ⟨h.1, inv_withRam h.2 _ (ramForm_dbfWriteLow s b (ramForm_of_inv h.2 :))⟩

/-- A reset gives a state with the invariant, but for the reset signal (R87). -/
theorem inv_applyReset (c : ResetCause) (s : State) (h : Inv (asSettled s)) :
    Inv { applyReset c s with rstSig := false } := by
  obtain ⟨form, size, nibbles⟩ := ramForm_resetRam c s (ramForm_of_inv h :)
  exact {
    cfg := h.cfg, romForm := h.romForm, romSize := h.romSize
    ramForm := form, ramSize := size, ramNibbles := nibbles
    pc := inRange_zero _, ar := inRange_zero _
    asr0 := inRange_mask _ _, asr1 := inRange_mask _ _, asr2 := inRange_mask _ _
    asr3 := inRange_mask _ _, asr4 := inRange_mask _ _
    sp := (by decide : (5 : BitVec 3).toNat ≤ 5)
    intsk := Nat.zero_le _
    iegmd := by
      show (if c = .rstA then 0 else s.iegmd) ≠ 3
      split
      · decide
      · exact h.iegmd
    modulo0 := (by decide : (0xFF : Byte) ≠ 0)
    modulo1 := (by decide : (0xFF : Byte) ≠ 0)
    mode := by cases c <;> trivial
    seq := trivial
    sio := by cases c <;> exact id
    quiet := by cases c <;> trivial
    rst := rfl }

/-- A reset of column `RST_C` leaves the CPU running (R470). -/
theorem runInv_applyReset (c : ResetCause) (s : State) (hc : c.isC = true) (h : Inv (asSettled s)) :
    RunInv (applyReset c s) := by
  refine ⟨?_, inv_applyReset c s h⟩
  show (if c.isC then Mode.run else _) = _
  rw [hc]
  rfl

theorem RunInv.reset {s : State} (h : RunInv s) : RunInv (applyReset .stack s) :=
  runInv_applyReset .stack s rfl h.inside.inv

theorem runInv_pushed (s : State) (v : PAddr) (hk : (s.sp - 1).toNat ≤ 5) (h : RunInv s) : RunInv (pushed s v) :=
  ⟨h.1, inv_withStack h.2 _ _ hk (asrInRange_put _ _ _ _ (asrInRange_of_inv h.2 :) (inRange_mask _ _))⟩

theorem runInv_pushThen (s : State) (v : PAddr) (k : State → State) (hk : ∀ t, RunInv t → RunInv (k t))
    (h : RunInv s) : RunInv (pushThen s v k) := by
  rcases pushThen_cases s v k with e | ⟨hsp, e⟩
  · rw [e]
    exact h.reset
  · rw [e]
    exact hk _ (runInv_pushed s v hsp h)

theorem runInv_popThen (s : State) (k : PAddr → State → State) (hk : ∀ v t, RunInv t → RunInv (k v t))
    (h : RunInv s) : RunInv (popThen s k) := by
  rcases popThen_cases s k with e | ⟨hsp, e⟩
  · rw [e]
    exact h.reset
  · rw [e]
    exact hk _ _ ⟨h.1, { h.2 with sp := hsp }⟩

theorem runInv_returnFromInterrupt (s : State) (h : RunInv s) : RunInv (returnFromInterrupt s) := by
  unfold returnFromInterrupt
  have hl : s.intsk.tail.length ≤ 3 := by
    rw [List.length_tail]
    exact (Nat.sub_le _ 1).trans h.2.intsk
  exact runInv_popThen s _ (fun v t ht => runInv_setPc _ v ⟨ht.1, { ht.2 with intsk := hl }⟩) h

/-! ### The invariant and the registers of the peripherals -/

theorem seqLegal_taint (q : AdcSeq) (h : seqLegal q) : seqLegal q.taint := by
  cases q <;> exact h

theorem runInv_tm1Pulse (s : State) (h : RunInv s) : RunInv (tm1Pulse s) := by
  rw [tm1Pulse_eq]
  exact ⟨h.1, { h.2 with mode := modeLegal_run _ h.1 }⟩

theorem runInv_tm0Pulse (s : State) (h : RunInv s) : RunInv (tm0Pulse s) := by
  rw [tm0Pulse_eq]
  exact ⟨h.1, { h.2 with mode := modeLegal_run _ h.1 }⟩

theorem runInv_writeTm0Mode (s : State) (v : Nibble) (h : RunInv s) : RunInv (writeTm0Mode s v) := by
  have ht : RunInv { s with tm0 := { s.tm0 with en := v.getLsbD 3, ck := v.extractLsb' 0 2 } } := ⟨h.1, { h.2 with }⟩
  unfold writeTm0Mode
  split
  · exact ⟨h.1, { ht.2 with }⟩
  · split
    · exact runInv_tm0Pulse _ ht
    · exact ht

theorem runInv_writeTm1Mode (s : State) (v : Nibble) (h : RunInv s) : RunInv (writeTm1Mode s v) := by
  have ht : RunInv { s with tm1 := { s.tm1 with en := v.getLsbD 3, ck := v.extractLsb' 0 2 } } :=
    ⟨h.1, { h.2 with mode := modeLegal_run _ h.1 }⟩
  unfold writeTm1Mode
  split
  · exact ⟨h.1, { ht.2 with }⟩
  · split
    · exact runInv_tm1Pulse _ ht
    · exact ht

theorem runInv_writeBtmMode (s : State) (v : Nibble) (h : RunInv s) : RunInv (writeBtmMode s v) := by
  unfold writeBtmMode
  split <;> exact ⟨h.1, { h.2 with }⟩

theorem runInv_adcStart (s : State) (h : RunInv s) : RunInv (adcStart s) := by
  unfold adcStart
  split
  · exact ⟨h.1, { h.2 with seq := (by decide : (0 : Nat) < 3) }⟩
  · exact ⟨h.1, { h.2 with seq := (by decide : (0 : Nat) < 25) }⟩

theorem runInv_writeAdcr (s : State) (v : Byte) (h : RunInv s) : RunInv (writeAdcr s v) := by
  unfold writeAdcr
  split
  · exact ⟨h.1, { h.2 with seq := (by decide : (0 : Nat) < 3) }⟩
  · exact h

theorem runInv_writeAdcMode (s : State) (v : Nibble) (h : RunInv s) : RunInv (writeAdcMode s v) := by
  refine ⟨h.1, { h.2 with seq := ?_ }⟩
  show seqLegal (if v.getLsbD 3 = s.adc.soft then s.adc.seq else s.adc.seq.taint)
  split
  · exact h.2.seq
  · exact seqLegal_taint _ h.2.seq

theorem runInv_writeAdcChannel (s : State) (v : Nibble) (h : RunInv s) : RunInv (writeAdcChannel s v) := by
  refine ⟨h.1, { h.2 with seq := ?_ }⟩
  show seqLegal (if v.extractLsb' 0 2 = s.adc.ch.extractLsb' 0 2 then s.adc.seq else s.adc.seq.taint)
  split
  · exact h.2.seq
  · exact seqLegal_taint _ h.2.seq

theorem runInv_writeSioMode (s t : State) (v : Nibble) (h : RunInv s) (e : writeSioMode s v = .ok t) : RunInv t := by
  unfold writeSioMode at e
  split at e
  · split at e
    · cases e
      exact ⟨h.1, { h.2 with sio := fun _ => rfl }⟩
    · cases e
  · cases e
    exact ⟨h.1, { h.2 with sio := nofun }⟩

theorem runInv_writeSioShift (s : State) (v : Byte) (h : RunInv s) : RunInv (writeSioShift s v) := by
  refine ⟨h.1, { h.2 with sio := fun ht => ?_ }⟩
  rcases (Bool.or_eq_true _ _).mp ht with ht | ht
  · exact h.2.sio ht
  · exact ht

theorem runInv_writeSp (s : State) (v : Nibble) (h : RunInv s) : RunInv (writeSp s v) := by
  unfold writeSp
  split
  · exact h.reset
  · rename_i hv
    exact ⟨h.1, { h.2 with sp := Nat.le_of_lt_succ (Nat.lt_of_not_le hv) }⟩

theorem ctrlWrite_intEdge (s : State) (v : Nibble) :
    ctrlWrite s .intEdge v =
      if v.extractLsb' 0 2 = 3 then .error .edgeModeReserved else .ok { s with iegmd := v.extractLsb' 0 2 } := rfl

theorem periWrite_tm0m (s : State) (w : Word) :
    periWrite s .tm0m w = if w.extractLsb' 0 8 = 0 then .error .moduloZero
      else .ok { s with tm0 := { s.tm0 with modulo := w.extractLsb' 0 8 } } := rfl

theorem periWrite_tm1m (s : State) (w : Word) :
    periWrite s .tm1m w = if w.extractLsb' 0 8 = 0 then .error .moduloZero
      else .ok { s with tm1 := { s.tm1 with modulo := w.extractLsb' 0 8 } } := rfl

theorem runInv_ctrlWrite (s t : State) (c : CtrlReg) (v : Nibble) (h : RunInv s) (e : ctrlWrite s c v = .ok t) :
    RunInv t := by
  cases c
  case sioMode => exact runInv_writeSioMode s t v h e
  case intEdge =>
    rw [ctrlWrite_intEdge] at e
    split at e
    · cases e
    · rename_i hv
      cases e
      exact ⟨h.1, { h.2 with iegmd := hv }⟩
  case sp => cases e; exact runInv_writeSp s v h
  case tm0Mode => cases e; exact runInv_writeTm0Mode s v h
  case tm1Mode => cases e; exact runInv_writeTm1Mode s v h
  case btmMode => cases e; exact runInv_writeBtmMode s v h
  case adcTrigger =>
    cases e
    split
    · exact runInv_adcStart s h
    · exact h
  case adcMode => cases e; exact runInv_writeAdcMode s v h
  case adcChannel => cases e; exact runInv_writeAdcChannel s v h
  all_goals cases e; exact ⟨h.1, { h.2 with }⟩

theorem runInv_rfWrite (s t : State) (a : DAddr) (v : Nibble) (h : RunInv s) (e : rfWrite s a v = .ok t) :
    RunInv t := by
  unfold rfWrite at e
  split at e
  · cases e
    exact runInv_memWrite s a v h
  · exact runInv_ctrlWrite s t _ v h e

theorem runInv_periRead (s t : State) (p : PeriReg) (h : RunInv s) (e : periRead s p = .ok t) : RunInv t := by
  cases p
  case unassigned => cases e
  case ar => cases e; exact runInv_dbfWrite s _ h
  case tm0tm1c => cases e; exact runInv_dbfWrite s _ h
  all_goals cases e; exact runInv_dbfWriteLow s _ h

theorem runInv_periWrite (s t : State) (p : PeriReg) (w : Word) (h : RunInv s) (e : periWrite s p w = .ok t) :
    RunInv t := by
  cases p
  case siosfr => cases e; exact runInv_writeSioShift s _ h
  case tm0m =>
    rw [periWrite_tm0m] at e
    split at e
    · cases e
    · rename_i hv
      cases e
      exact ⟨h.1, { h.2 with modulo0 := hv }⟩
  case tm1m =>
    rw [periWrite_tm1m] at e
    split at e
    · cases e
    · rename_i hv
      cases e
      exact ⟨h.1, { h.2 with modulo1 := hv }⟩
  case adcr => cases e; exact runInv_writeAdcr s _ h
  case ar => cases e; exact runInv_setAr s _ h
  case tm0tm1c => cases e; exact h
  case unassigned => cases e

theorem outcomeOf_next (x : Except Refusal State) (t : State) : outcomeOf x = .next t ↔ x = .ok t := by
  cases x <;> simp [outcomeOf]

/-! ### The invariant and the instructions -/

theorem runInv_execMovt (s t : State) (h : RunInv s) (e : execMovt s = .next t) : RunInv t := by
  cases e
  exact runInv_pushThen s _ _ (fun u hu => runInv_popThen _ _ (fun v w hw => runInv_setPc w v hw)
    (runInv_dbfWrite _ _ (runInv_setPc u _ hu))) h

theorem execStop_next (c : Nibble) (s t : State) (e : execStop c s = .next t) :
    t = initStop s ∨ t = s ∨ (stopOperandOk c = true ∧ s.tm1.ck ≠ 3 ∧ t = enterStop s c) := by
  unfold execStop at e
  split at e
  · rename_i hc
    split at e
    · cases e; exact .inl rfl
    split at e
    · cases e; exact .inr (.inl rfl)
    split at e
    · cases e
    · rename_i hk
      cases e
      exact .inr (.inr ⟨hc, hk, rfl⟩)
  · cases e

theorem execHalt_next (c : Nibble) (s t : State) (e : execHalt c s = .next t) :
    t = s ∨ (c.getLsbD 2 = false ∧ t = { s with mode := .halt c }) := by
  unfold execHalt at e
  split at e
  · cases e
  rename_i hc
  split at e
  · cases e; exact .inl rfl
  · cases e; exact .inr ⟨by simpa using hc, rfl⟩

/-- STOP leaves RUN without a skip pending; EI_PENDING is consumed at the end of its step. -/
theorem invInside_execStop (c : Nibble) (s t : State) (h : RunInv s) (hs : s.skip = false) (hr : s.rstSig = false)
    (e : execStop c s = .next t) : InvInside t := by
  have nr : ∀ m : Mode, s.rstSig = true → m = .run := fun m hr' => by rw [hr] at hr'; cases hr'
  rcases execStop_next c s t e with rfl | rfl | ⟨hc, hk, rfl⟩
  · exact ⟨{ h.2 with
      pc := inRange_zero _, ar := inRange_zero _, sp := (by decide : (5 : BitVec 3).toNat ≤ 5)
      intsk := Nat.zero_le _, iegmd := (by decide : (0 : BitVec 2) ≠ 3)
      modulo0 := (by decide : (0xFF : Byte) ≠ 0), modulo1 := (by decide : (0xFF : Byte) ≠ 0)
      mode := ⟨rfl, (by decide : (0 : BitVec 2) ≠ 3)⟩
      seq := trivial, sio := nofun, quiet := ⟨rfl, rfl⟩, rst := rfl }, nr _⟩
  · exact h.inside
  · exact ⟨{ h.2 with mode := ⟨hc, hk⟩, seq := trivial, quiet := ⟨hs, rfl⟩, rst := rfl }, nr _⟩

/-- As `invInside_execStop`, of HALT. -/
theorem invInside_execHalt (c : Nibble) (s t : State) (h : RunInv s) (hs : s.skip = false) (hr : s.rstSig = false)
    (e : execHalt c s = .next t) : InvInside t := by
  rcases execHalt_next c s t e with rfl | ⟨hc, rfl⟩
  · exact h.inside
  · refine ⟨{ h.2 with mode := hc, quiet := ⟨hs, rfl⟩, rst := rfl }, fun hr' => ?_⟩
    rw [show s.rstSig = true from hr'] at hr
    cases hr

/-- HALT and STOP, the instructions that can leave mode RUN without a reset. -/
def entersStandby (i : Instr) : Prop := (∃ c, i = .stop c) ∨ ∃ c, i = .halt c

/-- Every other instruction keeps the CPU running, and the invariant. -/
theorem runInv_exec (i : Instr) (s t : State) (h : RunInv s) (hi : ¬ entersStandby i) (e : exec i s = .next t) :
    RunInv t := by
  cases i
  case addR => cases e; exact runInv_arithFinish s _ _ h
  case addI => cases e; exact runInv_arithFinish s _ _ h
  case addcR => cases e; exact runInv_arithFinish s _ _ h
  case addcI => cases e; exact runInv_arithFinish s _ _ h
  case subR => cases e; exact runInv_arithFinish s _ _ h
  case subI => cases e; exact runInv_arithFinish s _ _ h
  case subcR => cases e; exact runInv_arithFinish s _ _ h
  case subcI => cases e; exact runInv_arithFinish s _ _ h
  case incAr => cases e; exact runInv_setAr s _ h
  case incIx => cases e; exact ⟨h.1, { h.2 with }⟩
  case skt => cases e; exact runInv_skipIf _ _ (runInv_psw s _ h)
  case skf => cases e; exact runInv_skipIf _ _ (runInv_psw s _ h)
  case ske => cases e; exact runInv_skipIf s _ h
  case skne => cases e; exact runInv_skipIf s _ h
  case skge => cases e; exact runInv_skipIf s _ h
  case sklt => cases e; exact runInv_skipIf s _ h
  case rorc => cases e; exact runInv_memWrite _ _ _ (runInv_psw s _ h)
  case movt => exact runInv_execMovt s t h e
  case pushAr => cases e; exact runInv_pushThen s _ _ (fun _ hu => hu) h
  case popAr => cases e; exact runInv_popThen s _ (fun v u hu => runInv_setAr u v hu) h
  case peek => cases e; exact ⟨h.1, { h.2 with }⟩
  case poke rf => exact runInv_rfWrite s t rf s.wr h ((outcomeOf_next _ t).mp e)
  case get p => exact runInv_periRead s t (periReg p) h ((outcomeOf_next _ t).mp e)
  case put p => exact runInv_periWrite s t (periReg p) (dbfRead s) h ((outcomeOf_next _ t).mp e)
  case brPage0 => cases e; exact runInv_setPc s _ h
  case brPage1 => cases e; exact runInv_setPc s _ h
  case brAr => cases e; exact runInv_setPc s _ h
  case call => cases e; exact runInv_pushThen s _ _ (fun u hu => runInv_setPc u _ hu) h
  case callAr => cases e; exact runInv_pushThen s _ _ (fun u hu => runInv_setPc u _ hu) h
  case ret => cases e; exact runInv_popThen s _ (fun v u hu => runInv_setPc u v hu) h
  case retsk => cases e; exact runInv_popThen s _ (fun v u hu => runInv_skip _ true (runInv_setPc u v hu)) h
  case reti => cases e; exact runInv_returnFromInterrupt s h
  case ei => cases e; exact ⟨h.1, { h.2 with quiet := quietUnlessRunning_run _ h.1 }⟩
  case di => cases e; exact ⟨h.1, { h.2 with quiet := quietUnlessRunning_run _ h.1 }⟩
  case stop c => exact absurd (.inl ⟨c, rfl⟩) hi
  case halt c => exact absurd (.inr ⟨c, rfl⟩) hi
  case nop => cases e; exact h
  all_goals cases e; exact runInv_memWrite s _ _ h

theorem invInside_exec (i : Instr) (s t : State) (h : RunInv s) (hs : s.skip = false) (hr : s.rstSig = false)
    (e : exec i s = .next t) : InvInside t := by
  by_cases hi : entersStandby i
  · rcases hi with ⟨c, rfl⟩ | ⟨c, rfl⟩
    · exact invInside_execStop c s t h hs hr e
    · exact invInside_execHalt c s t h hs hr e
  · exact (runInv_exec i s t h hi e).inside

/-! ### A clocked cycle, before the watchdog's reset -/

/-- What the hardware makes of `s` in one clocked cycle, up to a reset by the watchdog. -/
structure CycledTo (s x : State) : Prop where
  quiet : quietView { x with mode := s.mode } = quietView s
  mode : x.mode = s.mode ∨ (isWaiting s.mode ∧ x.mode = .run)
  adc : x.adc = (adcCycle (nextSample s)).adc
  sio : ∃ v, v.sio = s.sio ∧ x.sio = (sioCycle v).sio
  btm : x.btm = if btmPulseNext s then btmNext s.btm else s.btm
  prescaler : x.prescaler = s.prescaler + 1
  pins : x.pins = (nextSample s).pins
  freeIdx : x.freeIdx = (nextSample s).freeIdx

theorem quietView_withMode {s t : State} (m : Mode) (h : quietView t = quietView s) :
    quietView { t with mode := m } = quietView { s with mode := m } :=
  congrArg (fun z : State => { z with mode := m }) h

/-- A clocked cycle is that, and the watchdog's reset where it overflows. -/
theorem clockedCycle_to (s : State) :
    ∃ x, CycledTo s x ∧ clockedCycle s = if wdtResetsNext s then applyReset .wdt x else x := by
  obtain ⟨t1, b1, o, m, hc, hm⟩ := timers_frame s
  have h0 : quietView (tm0Cycle (tm0ExtPulse (nextSample s)) (prescalerCycle (intCycle (nextSample s)))) =
      quietView s := by
    rw [quiet_tm0Cycle, quiet_prescalerCycle, quiet_intCycle, quiet_nextSample]
  have h1 := (quiet_tm1Cycle (tm0Cycle (tm0ExtPulse (nextSample s)) (prescalerCycle (intCycle (nextSample s))))).1
  rw [quietView_field State.mode _ _ h0 (fun _ => rfl)] at h1
  have hq := h1.trans h0
  have e : clockedCycle s = btmCycle (sioCycle (adcCycle (tm1Cycle
    (tm0Cycle (tm0ExtPulse (nextSample s)) (prescalerCycle (intCycle (nextSample s))))))) := rfl
  generalize tm1Cycle (tm0Cycle (tm0ExtPulse (nextSample s)) (prescalerCycle (intCycle (nextSample s)))) = c
    at e hc hq
  have hadc : (adcCycle c).adc = (adcCycle (nextSample s)).adc := by
    refine adcCycle_congr (nextSample s) c ?_ (by rw [hc]) (by rw [hc])
    rw [hc, nextSample_frame]
  have hqv : quietView (sioCycle (adcCycle c)) = quietView c := by rw [quiet_sioCycle, quiet_adcCycle]
  have hv := (adcCycle_frame c).trans (congrArg (fun z : State => { z with adc := (adcCycle c).adc }) hc)
  generalize adcCycle c = v at e hqv hv hadc
  obtain ⟨y, b, hy⟩ := sioCycle_frame v
  have hck : btmClock (sioCycle v) = btmPulseNext s := by
    rw [hy, ← btmClock_next, hv]
    rfl
  have hbtm : (sioCycle v).btm = s.btm := by
    rw [hy, hv]
  have hw : (btmPulseNext s && wdtFires (btmNext s.btm)) = wdtResetsNext s := by
    rw [wdtFires_btmNext, Bool.and_comm]
    rfl
  rw [btmCycle_eq, hck, hbtm, hw] at e
  refine ⟨_, ⟨?_, ?_, ?_, ⟨v, by rw [hv], ?_⟩, ?_, ?_, ?_, ?_⟩, e⟩
  · refine (quietView_withMode s.mode (Eq.trans ?_ hqv)).trans hq
    rw [← hbtm]
    split <;> rfl
  · have hvm : v.mode = m := by rw [hv]
    rw [← hvm] at hm
    rw [hy]
    split <;> exact hm
  · rw [← hadc, hy]
    split <;> rfl
  · split <;> rfl
  · split
    · rfl
    · exact hbtm
  all_goals
    rw [hy, hv]
    split <;> rfl

/-- A field that is neither the mode nor the hardware's own. -/
theorem CycledTo.field {α : Type} (f : State → α) {s x : State} (h : CycledTo s x)
    (hf : ∀ u m, f (quietView { u with mode := m }) = f u) : f x = f s := by
  rw [← hf x s.mode, h.quiet]
  exact hf s s.mode

theorem clockedCycle_noReset (s : State) (h : (clockedCycle s).rstSig = false) : CycledTo s (clockedCycle s) := by
  obtain ⟨x, hx, e⟩ := clockedCycle_to s
  rw [e] at h ⊢
  split at h
  · cases h
  · rw [if_neg ‹_›]
    exact hx

/-- The sample a clocked cycle takes decides whether the program is overridden. -/
theorem overridden_congr (s t : State) (hc : t.cfg = s.cfg) (hp : t.pins = s.pins) (hf : t.freeIdx = s.freeIdx) :
    overridden t = overridden s := by
  unfold overridden resetAsserted pinReset State.drawBitAt
  rw [hc, hp, hf]

/-! ### The invariant and the hardware -/

/-- What changes the hardware's own state alone keeps the invariant, if the sequencer and the transfer keep theirs. -/
theorem inv_of_quiet (s t : State) (h : Inv s) (hq : quietView t = quietView s) (hseq : seqLegal t.adc.seq)
    (hsio : t.sio.tainted = true → t.sio.ts = true) : Inv t := by
  have hv : Inv (quietView s) := { h with seq := trivial, sio := nofun }
  rw [← hq] at hv
  exact { hv with seq := hseq, sio := hsio }

theorem seqLegal_adcCycle (s : State) (h : seqLegal s.adc.seq) : seqLegal (adcCycle s).adc.seq := by
  unfold adcCycle
  split <;> rename_i hs <;> rw [hs] at h
  · rw [hs]
    exact h
  · rename_i n b
    show seqLegal (if n + 1 = 25 then .idle else .continuous (n + 1) b)
    split
    · trivial
    · exact Nat.lt_of_le_of_ne h ‹_›
  · rename_i n b
    show seqLegal (if n + 1 = 3 then .idle else .single (n + 1) b)
    split
    · trivial
    · exact Nat.lt_of_le_of_ne h ‹_›

/-- Only a transfer in progress has unspecified data (D25). -/
def taintLegal (x : Sio) : Prop := x.tainted = true → x.ts = true

theorem taintLegal_sioRise (s : State) (h : taintLegal s.sio) : taintLegal (sioRise s).sio := by
  unfold sioRise
  split
  · split
    · exact nofun
    · exact h
  · exact h

theorem taintLegal_sioCheckPins (s : State) (h : taintLegal s.sio) (ht : s.sio.ts = true) :
    taintLegal (sioCheckPins s).sio := by
  unfold sioCheckPins
  split
  · exact h
  · exact fun _ => ht

theorem taintLegal_sioExternal (s : State) (h : taintLegal s.sio) : taintLegal (sioExternal s).sio := by
  unfold sioExternal
  split
  · exact h
  · split
    · exact taintLegal_sioRise s h
    · exact h

theorem taintLegal_sioDivided (s : State) (k : Nat) (h : taintLegal s.sio) : taintLegal (sioDivided s k).sio := by
  unfold sioDivided
  split
  · exact h
  · split
    · exact taintLegal_sioRise s h
    · exact h

theorem taintLegal_sioClocked (s : State) (h : taintLegal s.sio) : taintLegal (sioClocked s).sio := by
  unfold sioClocked
  split
  · exact taintLegal_sioExternal s h
  · exact taintLegal_sioRise _ h
  · exact taintLegal_sioDivided s 2 h
  · exact taintLegal_sioDivided s 5 h

theorem taintLegal_sioCycle (s : State) (h : taintLegal s.sio) : taintLegal (sioCycle s).sio := by
  have ht : taintLegal (if s.sio.ts then sioClocked (sioCheckPins s) else s).sio := by
    split
    · exact taintLegal_sioClocked _ (taintLegal_sioCheckPins s h ‹_›)
    · exact h
  exact ht

theorem taintLegal_sioStopCycle (s : State) (h : taintLegal s.sio) : taintLegal (sioStopCycle s).sio := by
  have ht : taintLegal (if s.sio.ts && decide (s.sio.ck = 0) then sioExternal (sioCheckPins s) else s).sio := by
    split
    · rename_i hts
      exact taintLegal_sioExternal _ (taintLegal_sioCheckPins s h (Bool.and_eq_true_iff.mp hts).1)
    · exact h
  exact ht

theorem invInside_nextSample (s : State) (h : InvInside s) : InvInside (nextSample s) := by
  rw [nextSample_frame]
  exact ⟨{ h.inv with }, h.running⟩

theorem inv_cycledTo_withMode (s x : State) (h : InvInside s) (hx : CycledTo s x) :
    Inv (asSettled { x with mode := s.mode }) := by
  have hseq : seqLegal x.adc.seq := by
    rw [hx.adc]
    refine seqLegal_adcCycle _ ?_
    rw [nextSample_frame]
    exact h.inv.seq
  have hsio : taintLegal x.sio := by
    obtain ⟨v, hv, e⟩ := hx.sio
    rw [e]
    exact taintLegal_sioCycle v (hv ▸ h.inv.sio)
  exact inv_of_quiet (asSettled s) _ h.inv (congrArg asSettled hx.quiet) hseq hsio

theorem invInside_cycledTo (s x : State) (h : InvInside s) (hx : CycledTo s x) : InvInside x := by
  have hi := inv_cycledTo_withMode s x h hx
  have hr : x.rstSig = s.rstSig := hx.field State.rstSig (fun _ _ => rfl)
  rcases hx.mode with hm | ⟨_, hm⟩
  · rw [← hm] at hi
    exact ⟨hi, fun h1 => hm.trans (h.running (hr ▸ h1))⟩
  · exact ⟨{ hi with mode := modeLegal_run _ hm, quiet := quietUnlessRunning_run _ hm }, fun _ => hm⟩

theorem invInside_clockedCycle (s : State) (h : InvInside s) : InvInside (clockedCycle s) := by
  obtain ⟨x, hx, e⟩ := clockedCycle_to s
  have hi := invInside_cycledTo s x h hx
  rw [e]
  split
  · exact (runInv_applyReset .wdt x rfl hi.inv).inside
  · exact hi

/-- A running CPU runs on, by itself or from 0000H after the watchdog's reset. -/
theorem clockedCycle_mode_run (s : State) (h : s.mode = .run) : (clockedCycle s).mode = .run := by
  obtain ⟨x, hx, e⟩ := clockedCycle_to s
  rw [e]
  split
  · rfl
  · rcases hx.mode with hm | ⟨_, hm⟩
    · exact hm.trans h
    · exact hm

/-- The serial interface's part of a cycle of STOP leaves the converter. -/
theorem sioStopCycle_adc (s : State) : (sioStopCycle s).adc = s.adc := by
  have rise : ∀ u : State, (sioRise u).adc = u.adc := by
    intro u
    unfold sioRise
    split
    · split <;> rfl
    · rfl
  have external : ∀ u : State, (sioExternal u).adc = u.adc := by
    intro u
    unfold sioExternal
    split
    · rfl
    · split
      · exact rise u
      · rfl
  have checked : (sioCheckPins s).adc = s.adc := by
    unfold sioCheckPins
    split <;> rfl
  have ht : (if s.sio.ts && decide (s.sio.ck = 0) then sioExternal (sioCheckPins s) else s).adc = s.adc := by
    split
    · exact (external _).trans checked
    · rfl
  exact ht

theorem stoppedCycle_hardware (s : State) (h : taintLegal s.sio) :
    (stoppedCycle s).adc = s.adc ∧ taintLegal (stoppedCycle s).sio := by
  have ht : ∀ b : Bool, (if b then tm0Pulse (intCycle (nextSample s)) else intCycle (nextSample s)).adc = s.adc ∧
      (if b then tm0Pulse (intCycle (nextSample s)) else intCycle (nextSample s)).sio = s.sio := by
    intro b
    rw [tm0Pulse_eq, nextSample_frame]
    cases b <;> exact ⟨rfl, rfl⟩
  unfold stoppedCycle
  simp only
  obtain ⟨ha, hs⟩ := ht (tm0ExtPulse (nextSample s) && decide ((intCycle (nextSample s)).tm0.ck = 3))
  exact ⟨(sioStopCycle_adc _).trans ha, taintLegal_sioStopCycle _ (hs ▸ h)⟩

theorem invInside_stoppedCycle (s : State) (h : InvInside s) : InvInside (stoppedCycle s) := by
  have hq := quiet_stoppedCycle s
  obtain ⟨hadc, hsio⟩ := stoppedCycle_hardware s h.inv.sio
  have hr : (stoppedCycle s).rstSig = s.rstSig := quietView_field State.rstSig _ _ hq (fun _ => rfl)
  have hm : (stoppedCycle s).mode = s.mode := quietView_field State.mode _ _ hq (fun _ => rfl)
  refine ⟨inv_of_quiet (asSettled s) _ h.inv (congrArg asSettled hq) ?_ hsio, fun h1 => hm.trans (h.running (hr ▸ h1))⟩
  show seqLegal (stoppedCycle s).adc.seq
  rw [hadc]
  exact h.inv.seq

/-! ### The invariant and the parts of a step -/

theorem cycles_succ (k : Nat) (s : State) :
    cycles (k + 1) s = if (clockedCycle s).rstSig || overridden (clockedCycle s) then clockedCycle s
      else cycles k (clockedCycle s) := rfl

/-- What every clocked cycle keeps, the time of an instruction keeps. -/
theorem cycles_induct (P : State → Prop) (hc : ∀ s, P s → P (clockedCycle s)) (n : Nat) (s : State) (h : P s) :
    P (cycles n s) := by
  induction n generalizing s with
  | zero => exact h
  | succ k ih =>
    rw [cycles_succ]
    split
    · exact hc s h
    · exact ih _ (hc s h)

theorem invInside_passTime (n : Nat) (s : State) (h : InvInside s) : InvInside (passTime n s) := by
  unfold passTime
  split
  · exact invInside_nextSample s h
  split
  · exact invInside_stoppedCycle s h
  · exact cycles_induct InvInside invInside_clockedCycle n s h

theorem nextSample_mode (s : State) : (nextSample s).mode = s.mode := by
  rw [nextSample_frame]

theorem passTime_mode_run (n : Nat) (s : State) (h : s.mode = .run) : (passTime n s).mode = .run := by
  unfold passTime
  rw [h]
  split
  · exact (nextSample_mode s).trans h
  · exact cycles_induct (fun u => u.mode = .run) clockedCycle_mode_run n s h

/-- Taking an interrupt, with room on the stack or without (R445, R472). -/
theorem runInv_takeInterrupt (x : IrqSource) (s : State) (h : RunInv s) : RunInv (takeInterrupt x s) := by
  rcases takeInterrupt_cases x s with e | ⟨hk, e⟩
  · rw [e]
    exact RunInv.reset (s := { s with irq := s.irq.put x (s.drawBit .irqAbandoned) }) ⟨h.1, { h.2 with }⟩
  · have hp := runInv_pushed s s.pc hk h
    have hl : ((s.psw :: s.intsk).take 3).length ≤ 3 := List.length_take_le 3 _
    rw [e]
    exact ⟨h.1, { hp.2 with pc := inRange_vector _ x, intsk := hl }⟩

theorem runInv_nextSample (s : State) (h : RunInv s) : RunInv (nextSample s) :=
  (invInside_nextSample s h.inside).run ((nextSample_mode s).trans h.1)

theorem runInv_clockedCycle (s : State) (h : RunInv s) : RunInv (clockedCycle s) :=
  (invInside_clockedCycle s h.inside).run (clockedCycle_mode_run s h.1)

theorem runInv_irqDly (s : State) (f : IrqSet) (h : RunInv s) : RunInv { s with irqDly := f } :=
  ⟨h.1, { h.2 with }⟩

theorem runInv_acceptCycle (x : IrqSource) (s : State) (h : RunInv s) : RunInv (acceptCycle x s) := by
  have ht := runInv_takeInterrupt x s h
  unfold acceptCycle
  simp only
  split
  · exact runInv_nextSample _ ht
  split
  · exact runInv_clockedCycle _ ht
  · exact runInv_irqDly _ _ (runInv_clockedCycle _ ht)

theorem runInv_acceptCheck (s : State) (h : RunInv s) : RunInv (acceptCheck s) := by
  rcases acceptCheck_cases s with e | ⟨x, _, _, _, e⟩
  · rw [e]
    exact h
  · rw [e]
    exact runInv_acceptCycle x s h

theorem invInside_irqDly (s : State) (f : IrqSet) (h : InvInside s) : InvInside { s with irqDly := f } :=
  ⟨{ h.inv with }, h.running⟩

theorem settleEi_eq (s : State) :
    settleEi s = { s with inte := s.inte || s.eiPending, eiPending := false } := by
  unfold settleEi
  split
  · rename_i h
    rw [h, Bool.or_true]
  · rename_i h
    rw [Bool.not_eq_true] at h
    rw [h, Bool.or_false, ← h]

theorem invInside_settleEi (s : State) (h : InvInside s) : InvInside (settleEi s) := by
  rw [settleEi_eq]
  exact ⟨{ h.inv with }, h.running⟩

theorem isRunning_iff (m : Mode) : isRunning m = true ↔ m = .run := by
  cases m <;> simp [isRunning]

/-- The end of a step gives the invariant back: an EI is fresh only where the CPU runs. -/
theorem inv_endOfStep (wasEi pending : Bool) (f : IrqSet) (s : State) (h : InvInside s)
    (hei : wasEi = true → s.mode = .run) : Inv (clearRstSig (endOfStep wasEi pending f s)) := by
  unfold endOfStep
  simp only
  split
  · exact h.settle (quietUnlessRunning_run _ (h.running ‹_›))
  split
  · have hm := hei ‹_›
    split
    · exact InvInside.settle ⟨{ h.inv with }, h.running⟩ (quietUnlessRunning_run _ hm)
    · exact (invInside_irqDly s f h).settle (quietUnlessRunning_run _ hm)
  · have hu := invInside_settleEi _ (invInside_irqDly s f h)
    have he : (settleEi { s with irqDly := f }).eiPending = false := by rw [settleEi_eq]
    generalize settleEi { s with irqDly := f } = u at hu he
    split
    · rename_i hc
      simp only [Bool.and_eq_true] at hc
      have hm : u.mode = .run := (isRunning_iff u.mode).mp hc.1.2
      have ha := runInv_acceptCheck u (hu.run hm)
      exact ha.inside.settle (quietUnlessRunning_run _ ha.1)
    · exact hu.settle (quietUnlessRunning_of_settled u hu.inv.quiet he)

/-! ### The invariant and every kind of step -/

theorem runInv_afterFetch (s : State) (h : RunInv s) : RunInv (afterFetch s) :=
  ⟨h.1, { h.2 with pc := inRange_mask _ _ }⟩

theorem inv_holdReset (s : State) (h : Inv s) : Inv (clearRstSig (holdReset s)) := by
  unfold holdReset
  rw [nextSample_frame]
  have hm : ∃ b o, heldMode s.mode = .held b o := by
    unfold heldMode
    split <;> exact ⟨_, _, rfl⟩
  obtain ⟨b, o, hm⟩ := hm
  rw [hm]
  exact { h with mode := trivial, quiet := trivial, rst := rfl }

theorem inv_skipStep (s : State) (h : Inv s) (hm : s.mode = .run) : Inv (clearRstSig (skipStep s)) := by
  have ha := runInv_skip _ false (runInv_afterFetch s (h.inside.run hm))
  exact inv_endOfStep _ _ _ _ (invInside_passTime _ _ ha.inside) nofun

/-- An executed EI leaves the CPU running. -/
theorem exec_ei_mode (i : Instr) (s t : State) (hi : isEi i = true) (e : exec i s = .next t) : t.mode = s.mode := by
  have : i = .ei := of_decide_eq_true hi
  subst this
  cases e
  rfl

theorem inv_executedStep (i : Instr) (s t : State) (h : Inv s) (hm : s.mode = .run) (hs : s.skip = false)
    (e : exec i (afterFetch s) = .next t) : Inv (clearRstSig (completeStep (isEi i) (fetch s) s t)) := by
  have ha := runInv_afterFetch s (h.inside.run hm)
  have ht := invInside_exec i (afterFetch s) t ha hs h.rst e
  refine inv_endOfStep _ _ _ _ (invInside_passTime _ _ ht) (fun hi => passTime_mode_run _ _ ?_)
  exact (exec_ei_mode i _ t hi e).trans hm

/-- In standby and in a wait neither a skip nor an EI is pending (R93, R300). -/
theorem nothingPending (s : State) (h : quietUnlessRunning s) (hm : ∀ b o, s.mode ≠ .held b o) (hr : s.mode ≠ .run) :
    s.skip = false ∧ s.eiPending = false := by
  unfold quietUnlessRunning at h
  split at h
  · exact absurd ‹_› hr
  · exact absurd ‹_› (hm _ _)
  all_goals exact h

theorem inv_haltCycle (c : Nibble) (s : State) (h : Inv s) (hm : s.mode = .halt c) :
    Inv (clearRstSig (haltCycle c s)) := by
  have ht := invInside_clockedCycle s h.inside
  obtain ⟨_, hei⟩ := nothingPending s h.quiet (by rw [hm]; exact nofun) (by rw [hm]; exact nofun)
  unfold haltCycle
  simp only
  split
  · exact ht.settle (quietUnlessRunning_run _ (ht.running ‹_›))
  · rename_i hr
    have he : (clockedCycle s).eiPending = false :=
      ((clockedCycle_noReset s (by simpa using hr)).field State.eiPending (fun _ _ => rfl)).trans hei
    have hu := invInside_irqDly _ s.irq ht
    generalize clockedCycle s = t at hu he
    split
    · have ha := runInv_acceptCheck { t with irqDly := s.irq, mode := .run }
        ⟨rfl, { hu.inv with mode := trivial, quiet := trivial, rst := rfl }⟩
      exact ha.inside.settle (quietUnlessRunning_run _ ha.1)
    · exact hu.settle (quietUnlessRunning_of_settled _ hu.inv.quiet he)

theorem inv_stopCycle (c : Nibble) (s : State) (h : Inv s) (hm : s.mode = .stop c) :
    Inv (clearRstSig (stopCycle c s)) := by
  have hq := quiet_stoppedCycle s
  obtain ⟨hskip, hei⟩ := nothingPending s h.quiet (by rw [hm]; exact nofun) (by rw [hm]; exact nofun)
  have hs : (stoppedCycle s).skip = false := (quietView_field State.skip _ _ hq (fun _ => rfl)).trans hskip
  have he : (stoppedCycle s).eiPending = false := (quietView_field State.eiPending _ _ hq (fun _ => rfl)).trans hei
  have hk : (stoppedCycle s).tm1.ck ≠ 3 := by
    rw [quietView_field (fun u : State => u.tm1.ck) _ _ hq (fun _ => rfl)]
    have hl := h.mode
    unfold modeLegal at hl
    rw [hm] at hl
    exact hl.2
  have ht := invInside_irqDly _ s.irq (invInside_stoppedCycle s h.inside)
  unfold stopCycle
  simp only
  generalize stoppedCycle s = t at ht hs he hk
  split
  · exact { ht.inv with mode := hk, quiet := ⟨hs, he⟩, rst := rfl }
  · exact ht.settle (quietUnlessRunning_of_settled _ ht.inv.quiet he)

theorem inv_waitCycle (w : WaitFor) (g : Nat) (s : State) (h : Inv s) (hm : s.mode = .wait w g) :
    Inv (clearRstSig (waitCycle w g s)) := by
  obtain ⟨hskip, hei⟩ := nothingPending s h.quiet (by rw [hm]; exact nofun) (by rw [hm]; exact nofun)
  cases g with
  | succ k =>
    have hl := h.mode
    unfold modeLegal at hl
    rw [hm] at hl
    unfold waitCycle
    rw [nextSample_frame]
    exact { h with mode := by cases w <;> exact hl, quiet := ⟨hskip, hei⟩, rst := rfl }
  | zero =>
    have ht := invInside_clockedCycle s h.inside
    unfold waitCycle
    simp only
    split
    · exact ht.settle (quietUnlessRunning_run _ (ht.running ‹_›))
    rename_i hr
    have hx := clockedCycle_noReset s (by simpa using hr)
    have he : (clockedCycle s).eiPending = false := (hx.field State.eiPending (fun _ _ => rfl)).trans hei
    have hw := inv_cycledTo_withMode s _ h.inside hx
    have hu := invInside_irqDly _ s.irq ht
    generalize clockedCycle s = t at hu he hw
    split
    · exact { hw with quiet := quietUnlessRunning_of_settled _ hw.quiet he, rst := rfl }
    split
    · rename_i hrun
      have hmr : t.mode = .run := (isRunning_iff t.mode).mp hrun
      have ha := runInv_acceptCheck { t with irqDly := s.irq } (hu.run hmr)
      exact ha.inside.settle (quietUnlessRunning_run _ ha.1)
    · exact hu.settle (quietUnlessRunning_of_settled _ hu.inv.quiet he)

theorem inv_releaseReset (b o : Bool) (s : State) (h : Inv s) : Inv (clearRstSig (releaseReset b o s)) := by
  have hr := inv_applyReset (if b then .rstB else .rstA) s h.inside.inv
  unfold releaseReset
  simp only
  rw [nextSample_frame]
  exact { hr with mode := by cases b <;> trivial, quiet := ⟨rfl, rfl⟩, rst := rfl }

/-- Settles O9: every field of the invariant holds of the values of R87. -/
theorem resetHasInvariant : Obligations.ResetHasInvariant where
  cfg := rfl
  romForm := rfl
  romSize := rfl
  ramForm := rfl
  ramSize := rfl
  ramNibbles := rfl
  pc := rfl
  ar := rfl
  asr0 := rfl
  asr1 := rfl
  asr2 := rfl
  asr3 := rfl
  asr4 := rfl
  sp := by decide
  intsk := by decide
  iegmd := by decide
  modulo0 := by decide
  modulo1 := by decide
  mode := trivial
  seq := trivial
  sio := nofun
  quiet := ⟨rfl, rfl⟩
  rst := rfl

/-- Settles O10: `step_cases` says which of seven steps was made, and each keeps the invariant. -/
theorem stepKeepsInvariant : Obligations.StepKeepsInvariant := by
  intro s t h e
  rcases step_cases s t e with rfl | ⟨hm, _, rfl⟩ | ⟨i, u, hm, hs, he, rfl⟩ | ⟨c, hm, rfl⟩ | ⟨c, hm, rfl⟩ |
    ⟨w, g, hm, rfl⟩ | ⟨b, o, _, rfl⟩
  · exact inv_holdReset s h
  · exact inv_skipStep s h hm
  · exact inv_executedStep i s u h hm hs he
  · exact inv_haltCycle c s h hm
  · exact inv_stopCycle c s h hm
  · exact inv_waitCycle w g s h hm
  · exact inv_releaseReset b o s h

end Sys2Proof.Machine
end

section
/-! Data memory and the arithmetic forms (O12, O13, O19), the step of a word (O5, O7) and the values of a reset (O47, O48). -/

namespace Sys2Proof.Machine

/-! ### Data memory -/

/-- Settles O12: `memWrite_stored` has the frame, the read-back and the latch of every address of the map. -/
theorem writeStoresOneNibble : Obligations.WriteStoresOneNibble := memWrite_stored

/-- Settles O13: BANK is an entry of the map (R33) that a read answers with 0 and a write passes over. -/
theorem bankIsFixedZero : Obligations.BankIsFixedZero := fun _ _ => ⟨rfl, rfl⟩

/-- Settles O19: each of the eight forms ends in `arithFinish`, which stores nothing where CMP is 1. -/
theorem compareModeStoresNothing : Obligations.CompareModeStoresNothing := by
  intro s r n4 m hcmp done
  have compares : ∀ (a : DAddr) (x : AluOut), (.next (arithFinish s a x) : Host.Outcome State Fault Refusal) =
      .next { s with psw := { s.psw with cy := x.cy, z := s.psw.z && decide (x.res = 0) } } :=
    fun a x => congrArg Host.Outcome.next (arithFinish_compare s a x hcmp)
  exact ⟨compares _ _, compares _ _, compares _ _, compares _ _, compares _ _, compares _ _, compares _ _, compares _ _⟩

/-! ### The time and the step of a word -/

theorem isStopped_iff (m : Mode) : isStopped m = true ↔ ∃ c, m = .stop c := by
  cases m <;> simp [isStopped]

/-- After an internal reset only a sample is taken (log 20). -/
theorem passTime_reset (n : Nat) (s : State) (h : s.rstSig = true) : passTime n s = nextSample s := by
  unfold passTime
  rw [if_pos h]

/-- After a STOP no clock runs (R466). -/
theorem passTime_stopped (n : Nat) (s : State) (hr : s.rstSig = false) (h : ∃ c, s.mode = .stop c) :
    passTime n s = stoppedCycle s := by
  unfold passTime
  rw [if_neg (by rw [hr]; exact Bool.false_ne_true), if_pos ((isStopped_iff _).mpr h)]

theorem passTime_clocked (n : Nat) (s : State) (hr : s.rstSig = false) (h : ∀ c, s.mode ≠ .stop c) :
    passTime n s = cycles n s := by
  have hn : ¬ isStopped s.mode = true := fun e => ((isStopped_iff _).mp e).elim h
  unfold passTime
  rw [if_neg (by rw [hr]; exact Bool.false_ne_true), if_neg hn]

theorem cycles_one (s : State) : cycles 1 s = clockedCycle s := by
  rw [cycles_succ]
  split <;> rfl

/-- A second cycle follows where neither a reset nor the sample ended the first (R520; logs 20, 21). -/
theorem cycles_two (s : State) :
    cycles 2 s = if (clockedCycle s).rstSig = true ∨ overridden (clockedCycle s) = true then clockedCycle s
      else clockedCycle (clockedCycle s) := by
  rw [cycles_succ, cycles_one]
  simp only [Bool.or_eq_true]

/-- Settles O5: the step by `step_run` and `runStep_ok`, its time by the three cases of `passTime`. -/
theorem stepRunsDecoded : Obligations.StepRunsDecoded := by
  refine ⟨fun s i h hd => ?_, fun t n => ⟨fun hr hm => ?_, passTime_stopped n t, passTime_reset n t⟩⟩
  · obtain ⟨hm, hs, hv, hp, hr⟩ := h
    exact (step_run s hv hp hr hm).trans (congrArg settled (runStep_ok s i hs hd))
  · rw [passTime_clocked 1 t hr hm, passTime_clocked 2 t hr hm]
    exact ⟨cycles_one t, cycles_two t⟩

/-! ### A skipped word -/

theorem step_skips (s : State) (hm : s.mode = .run) (hs : s.skip = true) (h : overridden s = false) :
    step s = settled (.next (skipStep s)) := by
  rw [step_of_mode s h]
  unfold modeStep
  rw [hm]
  unfold runStep
  rw [hs]
  rfl

/-- With the watchdog off a cycle of a running CPU changes only what the hardware changes by itself. -/
theorem quiet_clockedCycle_run (s : State) (hm : s.mode = .run) (hw : s.btm.wdtEn = false) :
    CycledTo s (clockedCycle s) ∧ quietView (clockedCycle s) = quietView s := by
  obtain ⟨x, hx, e⟩ := clockedCycle_to s
  rw [wdtResetsNext_off s hw, if_neg Bool.false_ne_true] at e
  rw [e]
  refine ⟨hx, ?_⟩
  rcases hx.mode with h | ⟨⟨w, g, h⟩, _⟩
  · have hq := hx.quiet
    rw [← h] at hq
    exact hq
  · rw [hm] at h
    cases h

theorem quiet_cycles_run (n : Nat) (s : State) (hm : s.mode = .run) (hw : s.btm.wdtEn = false) :
    quietView (cycles n s) = quietView s := by
  refine cycles_induct (fun u => quietView u = quietView s) (fun u hu => ?_) n s rfl
  have hum : u.mode = s.mode := quietView_field State.mode _ _ hu (fun _ => rfl)
  have huw : u.btm.wdtEn = s.btm.wdtEn := quietView_field (fun z : State => z.btm.wdtEn) _ _ hu (fun _ => rfl)
  exact (quiet_clockedCycle_run u (hum.trans hm) (huw.trans hw)).2.trans hu

/-- The end of a step in which no interrupt is enabled (R300). -/
theorem endOfStep_disabled (pending : Bool) (f : IrqSet) (s : State) (hr : s.rstSig = false) (hi : s.inte = false)
    (he : s.eiPending = false) : endOfStep false pending f s = { s with irqDly := f } := by
  have hs : settleEi { s with irqDly := f } = { s with irqDly := f } := by
    unfold settleEi
    rw [if_neg (by rw [he]; exact Bool.false_ne_true)]
  have ha : acceptCheck { s with irqDly := f } = { s with irqDly := f } := by
    unfold acceptCheck
    rw [if_neg (by rw [hi]; exact Bool.false_ne_true)]
  unfold endOfStep
  simp only
  rw [if_neg (by rw [hr]; exact Bool.false_ne_true), if_neg Bool.false_ne_true, hs, ha, ite_self]

/-- What the hardware changes by itself no data address shows but a port. -/
theorem memRead_quietView (s : State) (a : DAddr) (h : notPort a) : memRead (quietView s) a = memRead s a := by
  obtain ⟨ha, hb, hc, hd, he, hf⟩ := dloc_notPort a h
  unfold memRead
  generalize dloc a = l at ha hb hc hd he hf
  cases l
  case p0a => exact absurd rfl ha
  case p0b => exact absurd rfl hb
  case p0c => exact absurd rfl hc
  case p0d => exact absurd rfl hd
  case p0e => exact absurd rfl he
  case p0f => exact absurd rfl hf
  all_goals rfl

theorem nextSample_freeIdx (s : State) : (nextSample s).freeIdx = s.freeIdx + 1 := by
  unfold nextSample
  split <;> rfl

theorem nextSample_pins_congr (s t : State) (hi : t.inputs = s.inputs) (hp : t.pins = s.pins) :
    (nextSample t).pins = (nextSample s).pins := by
  unfold nextSample
  rw [hi]
  cases s.inputs
  · exact hp
  · rfl

/-- The sample that a cycle takes is the next one, whatever the program has done. -/
theorem overridden_cycledTo (s u x : State) (hx : CycledTo u x) (hc : u.cfg = s.cfg) (hi : u.inputs = s.inputs)
    (hp : u.pins = s.pins) (hf : u.freeIdx = s.freeIdx) : overridden x = overridden (nextSample s) := by
  refine overridden_congr _ _ ?_ ?_ ?_
  · rw [nextSample_frame s]
    exact (hx.field State.cfg (fun _ _ => rfl)).trans hc
  · rw [hx.pins, nextSample_pins_congr s u hi hp]
  · rw [hx.freeIdx, nextSample_freeIdx, nextSample_freeIdx, hf]

/-- The prescaler counts every cycle of a word that no sample cuts short (R360, R520). -/
theorem prescaler_cycles (w : Word) (s : State) (hm : s.mode = .run) (hw : s.btm.wdtEn = false)
    (hr : s.rstSig = false) (ho : overridden (nextSample s) = false) :
    (cycles (wordCycles w) s).prescaler = s.prescaler + (if w = 0x3810 then 2 else 1) := by
  obtain ⟨h1, q1⟩ := quiet_clockedCycle_run s hm hw
  unfold wordCycles
  split
  · have hr1 : (clockedCycle s).rstSig = false := (h1.field State.rstSig (fun _ _ => rfl)).trans hr
    have ho1 : overridden (clockedCycle s) = false :=
      (overridden_cycledTo s s _ h1 rfl rfl rfl rfl).trans ho
    have hm1 : (clockedCycle s).mode = .run := clockedCycle_mode_run s hm
    have hw1 : (clockedCycle s).btm.wdtEn = false := (h1.field (fun z : State => z.btm.wdtEn) (fun _ _ => rfl)).trans hw
    rw [cycles_two, hr1, ho1, if_neg (by simp), (quiet_clockedCycle_run _ hm1 hw1).1.prescaler, h1.prescaler,
      BitVec.add_assoc]
    rfl
  · rw [cycles_one]
    exact h1.prescaler

/-- The step of a skipped word where neither the watchdog nor an interrupt acts. -/
theorem skipStep_quiet (s : State) (hm : s.mode = .run) (hr : s.rstSig = false) (hw : s.btm.wdtEn = false)
    (hi : s.inte = false) (he : s.eiPending = false) :
    skipStep s = { cycles (wordCycles (fetch s)) { afterFetch s with skip := false } with irqDly := s.irq } := by
  have hp := passTime_clocked (wordCycles (fetch s)) { afterFetch s with skip := false } hr (by
    intro c h
    rw [show s.mode = .stop c from h] at hm
    cases hm)
  have hq := quiet_cycles_run (wordCycles (fetch s)) { afterFetch s with skip := false } hm hw
  unfold skipStep completeStep
  rw [hp]
  refine endOfStep_disabled _ _ _ ?_ ?_ ?_
  · exact (quietView_field State.rstSig _ _ hq (fun _ => rfl)).trans hr
  · exact (quietView_field State.inte _ _ hq (fun _ => rfl)).trans hi
  · exact (quietView_field State.eiPending _ _ hq (fun _ => rfl)).trans he

/-- Settles O7: the step is `skipStep`, whose cycles are quiet, so whatever `quietView` shows is as it was. -/
theorem skippedWordDoesNothing : Obligations.SkippedWordDoesNothing := by
  refine ⟨fun s hm hs ho => step_skips s hm hs ho, fun s hm hs hv hp hra hr hw hi he => ?_⟩
  have ho : overridden s = false := by
    unfold overridden
    rw [hv, hp, hra]
    rfl
  have hstep := step_skips s hm hs ho
  rw [skipStep_quiet s hm hr hw hi he] at hstep
  have hq := quiet_cycles_run (wordCycles (fetch s)) { afterFetch s with skip := false } hm hw
  have hpre := prescaler_cycles (fetch s) { afterFetch s with skip := false } hm hw hr
  have hns : overridden (nextSample { afterFetch s with skip := false }) = overridden (nextSample s) := by
    refine overridden_congr _ _ ?_ (nextSample_pins_congr _ _ rfl rfl) ?_
    · rw [nextSample_frame, nextSample_frame s]
      rfl
    · rw [nextSample_freeIdx, nextSample_freeIdx]
      rfl
  generalize cycles (wordCycles (fetch s)) { afterFetch s with skip := false } = u at hq hpre hstep
  have hqt : quietView (clearRstSig { u with irqDly := s.irq }) =
      quietView { s with pc := (s.pc + 1) &&& s.cfg.part.addrMask, skip := false, irqDly := s.irq } := by
    refine (congrArg (fun z : State => { z with irqDly := s.irq, rstSig := false }) hq).trans ?_
    exact congrArg (fun b => quietView { s with
      pc := (s.pc + 1) &&& s.cfg.part.addrMask, skip := false, irqDly := s.irq, rstSig := b }) hr.symm
  have kept : ∀ {α : Type} (f : State → α), (∀ z, f (quietView z) = f z) → f (clearRstSig { u with irqDly := s.irq }) =
      f { s with pc := (s.pc + 1) &&& s.cfg.part.addrMask, skip := false, irqDly := s.irq } :=
    fun f hf => quietView_field f _ _ hqt hf
  refine ⟨_, hstep, hqt, (kept State.mode fun _ => rfl).trans hm, (kept State.inte fun _ => rfl).trans hi,
    kept State.ip fun _ => rfl, kept State.iegmd fun _ => rfl, kept State.ports fun _ => rfl,
    kept State.psw fun _ => rfl, kept (fun z => z.tm0.modulo) fun _ => rfl, kept (fun z => z.tm1.modulo) fun _ => rfl,
    kept (fun z => z.tm0.en) fun _ => rfl, kept (fun z => z.tm0.ck) fun _ => rfl,
    kept (fun z => z.tm1.en) fun _ => rfl, kept (fun z => z.tm1.ck) fun _ => rfl,
    kept (fun z => z.btm.isel) fun _ => rfl, kept (fun z => z.btm.ck) fun _ => rfl,
    kept (fun z => z.adc.soft) fun _ => rfl, kept (fun z => z.adc.ch) fun _ => rfl,
    kept (fun z => z.sio.hiz) fun _ => rfl, kept (fun z => z.sio.ck) fun _ => rfl,
    fun hn => hpre (hns.trans hn), fun a ha => ?_⟩
  exact kept (fun z => memRead z a) fun z => memRead_quietView z a ha

/-! ### Reset -/

/-- Settles O47: the fields of `State.reset`, in the order of R87. -/
theorem stateAfterReset : Obligations.StateAfterReset :=
  ⟨rfl, rfl, rfl, rfl, rfl, rfl, rfl, rfl, rfl, rfl, rfl, rfl, rfl, rfl, rfl, rfl, rfl, rfl, rfl, rfl, rfl, rfl, rfl, rfl,
    rfl, rfl, rfl, rfl, rfl, rfl, rfl⟩

/-- `RST_B` keeps the RAM but for DBF (R29, R30, R87). -/
theorem ramGet_resetRam_rstB (s : State) (a : DAddr) (h : a.toNat < 0x0C ∨ 0x10 ≤ a.toNat) :
    ramGet (resetRam .rstB s) a = ramGet s.ram a := by
  unfold ramGet resetRam
  rw [if_pos rfl, memGet_fill_other _ _ _ _ _ h]

theorem memRead_applyReset_rstB (s : State) (a : DAddr)
    (h : a.toNat < 0x0C ∨ (0x10 ≤ a.toNat ∧ a.toNat ≤ 0x6D)) : memRead (applyReset .rstB s) a = memRead s a := by
  have hd : dloc a = .ram := (dloc_ram_iff a).mpr (by omega)
  unfold memRead
  rw [hd]
  exact ramGet_resetRam_rstB s a (by omega)

/-- Settles O48: what every reset fixes, then column by column what `RST_A` fixes, what `RST_B` fixes and retains, what
only `RST_A` clears, and what `RST_C` does. -/
theorem resetTable : Obligations.ResetTable := by
  intro c s
  refine ⟨rfl, rfl, rfl, rfl, rfl, rfl, rfl, rfl, rfl, rfl, rfl, rfl, rfl, rfl, rfl, rfl, rfl, rfl, rfl, rfl, rfl, rfl, rfl,
    rfl, rfl, rfl, ?columnA, ?columnB, ?keptByBC, ?watchdog, ?columnC⟩
  case columnA =>
    rintro rfl
    exact ⟨rfl, rfl, rfl, rfl, rfl, rfl, rfl, rfl, rfl, rfl, rfl, rfl, rfl, rfl⟩
  case columnB =>
    rintro rfl
    exact ⟨rfl, rfl, rfl, rfl, rfl, rfl, rfl, rfl, rfl, rfl, memRead_applyReset_rstB s⟩
  case keptByBC =>
    intro hc
    have keeps : ∀ {α : Type} (x y : α), (if c = .rstA then x else y) = y := fun _ _ => if_neg hc
    exact ⟨keeps _ _, keeps _ _, keeps _ _, keeps _ _, keeps _ _, keeps _ _, keeps _ _, keeps _ _, keeps _ _, keeps _ _,
      keeps _ _, keeps _ _, by
        show resetAdc c s = _
        unfold resetAdc
        simp only [keeps], keeps _ _, keeps _ _, keeps _ _⟩
  case watchdog =>
    rintro rfl
    rfl
  case columnC =>
    rintro (rfl | rfl) <;> rfl

end Sys2Proof.Machine
end

section
/-! The control registers (O29, O30, O31, O52, O53, O57, O59, O60): what a POKE does to each, and what a PEEK reads. -/

namespace Sys2Proof.Machine

/-! ### Reaching a control register -/

/-- A POKE below 40H is a write of WR to the control register there (R113). -/
theorem exec_poke_ctrl (s : State) (a : DAddr) (h : a.toNat < 0x40) :
    exec (.poke a) s = outcomeOf (ctrlWrite s (ctrlReg a) s.wr) := by
  show outcomeOf (rfWrite s a s.wr) = _
  unfold rfWrite
  rw [if_neg (Nat.not_le_of_lt h)]

/-- As `exec_poke_ctrl`, where the register takes the write. -/
theorem exec_poke_ok (s t : State) (a : DAddr) (h : a.toNat < 0x40) (e : ctrlWrite s (ctrlReg a) s.wr = .ok t) :
    exec (.poke a) s = .next t := by
  rw [exec_poke_ctrl s a h, e]
  rfl

/-- A PEEK below 40H reads the control register there (R112). -/
theorem rfRead_ctrl (s : State) (a : DAddr) (h : a.toNat < 0x40) : rfRead s a = ctrlRead s (ctrlReg a) := by
  unfold rfRead
  rw [if_neg (Nat.not_le_of_lt h)]

/-- The one address of every control register in use (R46). -/
def CtrlReg.addr (c : CtrlReg) : DAddr :=
  match c with
  | .sp => 0x01
  | .sioMode => 0x02
  | .wdt => 0x03
  | .pinSelect => 0x0B
  | .groupPullup => 0x0C
  | .bitPullup => 0x0D
  | .intLevel => 0x0F
  | .tm0Mode => 0x11
  | .tm1Mode => 0x12
  | .btmMode => 0x13
  | .analogSelect => 0x1B
  | .directionC => 0x1C
  | .intEdge => 0x1F
  | .adcTrigger => 0x20
  | .adcMode => 0x21
  | .adcChannel => 0x22
  | .directionD => 0x2B
  | .groupDirection => 0x2C
  | .ipSio => 0x2E
  | .ipMain => 0x2F
  | .irqSio => 0x3B
  | .irqBtm => 0x3C
  | .irqTm1 => 0x3D
  | .irqTm0 => 0x3E
  | .irqInt => 0x3F
  | .unused => 0

theorem ctrlReg_addr : ∀ a : DAddr, ctrlReg a = .unused ∨ (ctrlReg a).addr = a := by decide

/-- No two addresses have one control register in use. -/
theorem ctrlReg_inj (a b : DAddr) (h : ctrlReg a = ctrlReg b) (hu : ctrlReg b ≠ .unused) : a = b := by
  have ha := (ctrlReg_addr a).resolve_left (h ▸ hu)
  have hb := (ctrlReg_addr b).resolve_left hu
  rw [← ha, ← hb, h]

/-! ### Plain registers: read back as written -/

/-- The bits a plain register holds (R50-R52, R57, R58, R63-R71); the other registers act when they are written. -/
def plainMask (c : CtrlReg) : Option Nibble :=
  match c with
  | .pinSelect => some 0x9
  | .groupPullup => some 0x7
  | .bitPullup => some 0xF
  | .analogSelect => some 0xF
  | .directionC => some 0xF
  | .directionD => some 0xF
  | .groupDirection => some 0x7
  | .ipSio => some 0x1
  | .ipMain => some 0xF
  | .irqSio => some 0x1
  | .irqBtm => some 0x1
  | .irqTm1 => some 0x1
  | .irqTm0 => some 0x1
  | .irqInt => some 0x1
  | _ => none

theorem nibble_outer : ∀ v : Nibble, nibbleOf (v.getLsbD 3) false false (v.getLsbD 0) = v &&& 0x9 := by decide

theorem nibble_lowThree : ∀ v : Nibble, (0 : BitVec 1) ++ v.extractLsb' 0 3 = v &&& 0x7 := by decide

theorem nibble_all : ∀ v : Nibble, v = v &&& 0xF := by decide

theorem nibble_bits : ∀ v : Nibble,
    nibbleOf (v.getLsbD 3) (v.getLsbD 2) (v.getLsbD 1) (v.getLsbD 0) = v &&& 0xF := by decide

theorem nibble_bit0 : ∀ v : Nibble, bit0 (v.getLsbD 0) = v &&& 0x1 := by decide

section Plain

variable (s t : State) (v m : Nibble) (c : CtrlReg) (h : plainMask c = some m)

include h

theorem ctrlWrite_plain_ok : ∃ t, ctrlWrite s c v = .ok t := by
  cases c <;> cases h
  all_goals exact ⟨_, rfl⟩

variable (hw : ctrlWrite s c v = .ok t)

include hw

theorem ctrlRead_plain_same : ctrlRead t c = v &&& m := by
  cases c <;> cases h <;> cases hw
  case pinSelect => exact nibble_outer v
  case groupPullup | groupDirection => exact nibble_lowThree v
  case bitPullup | analogSelect | directionC | directionD => exact nibble_all v
  case ipMain => exact nibble_bits v
  case ipSio | irqSio | irqBtm | irqTm1 | irqTm0 | irqInt => exact nibble_bit0 v

/-- No other register shows the write: every pair of the map, by the field each reads. -/
theorem ctrlRead_plain_other (d : CtrlReg) (hd : d ≠ c) : ctrlRead t d = ctrlRead s d := by
  cases c <;> cases h <;> cases hw
  all_goals cases d <;> first | rfl | exact absurd rfl hd

/-- The write reaches port registers, enable or request flags, never a latch. -/
theorem ctrlWrite_plain_frame : { t with ports := s.ports, ip := s.ip, irq := s.irq } = s ∧
    t.ports.latA = s.ports.latA ∧ t.ports.latB = s.ports.latB ∧ t.ports.latC = s.ports.latC ∧
    t.ports.latD = s.ports.latD ∧ t.ports.latE = s.ports.latE := by
  cases c <;> cases h <;> cases hw
  all_goals exact ⟨rfl, rfl, rfl, rfl, rfl, rfl⟩

end Plain

/-- Of the data addresses the port registers and flags show at the ports alone. -/
theorem memRead_of_frame (s t : State) (h : { t with ports := s.ports, ip := s.ip, irq := s.irq } = s) (a : DAddr)
    (ha : notPort a) : memRead t a = memRead s a := by
  have hm : memRead { t with ports := s.ports, ip := s.ip, irq := s.irq } a = memRead t a := by
    obtain ⟨hA, hB, hC, hD, hE, hF⟩ := dloc_notPort a ha
    unfold memRead
    generalize dloc a = l at hA hB hC hD hE hF
    cases l <;> first | rfl | contradiction
  rw [← hm, h]

theorem latchAt_congr (s t : State) (h : t.ports.latA = s.ports.latA ∧ t.ports.latB = s.ports.latB ∧
    t.ports.latC = s.ports.latC ∧ t.ports.latD = s.ports.latD ∧ t.ports.latE = s.ports.latE) (a : DAddr) :
    latchAt t a = latchAt s a := by
  obtain ⟨hA, hB, hC, hD, hE⟩ := h
  unfold latchAt
  rw [hA, hB, hC, hD, hE]

/-- A POKE of a plain register. -/
theorem poke_plain (s : State) (a : DAddr) (m : Nibble) (ha : a.toNat < 0x40) (h : plainMask (ctrlReg a) = some m) :
    ∃ t, exec (.poke a) s = .next t ∧ rfRead t a = s.wr &&& m ∧
      (∀ b : DAddr, b.toNat < 0x40 → b ≠ a → rfRead t b = rfRead s b) ∧
      (∀ b : DAddr, notPort b → memRead t b = memRead s b) ∧ (∀ b : DAddr, latchAt t b = latchAt s b) ∧
      { t with ports := s.ports, ip := s.ip, irq := s.irq } = s := by
  obtain ⟨t, hw⟩ := ctrlWrite_plain_ok s s.wr m _ h
  obtain ⟨frame, latches⟩ := ctrlWrite_plain_frame s t s.wr m _ h hw
  have hu : ctrlReg a ≠ .unused := by
    intro e
    rw [e] at h
    cases h
  refine ⟨t, exec_poke_ok s t a ha hw, ?_, fun b hb hne => ?_, memRead_of_frame s t frame, latchAt_congr s t latches,
    frame⟩
  · rw [rfRead_ctrl t a ha]
    exact ctrlRead_plain_same s t s.wr m _ h hw
  · rw [rfRead_ctrl t b hb, rfRead_ctrl s b hb]
    exact ctrlRead_plain_other s t s.wr m _ h hw _ fun e => hne (ctrlReg_inj b a e hu)

/-- The value of a mode register that has a bit 3, no bit 2, and two bits below. -/
theorem modeNibble_toNat : ∀ (b : Bool) (k : BitVec 2),
    (BitVec.ofBool b ++ (0 : BitVec 1) ++ k).toNat = 8 * b.toNat + k.toNat := by decide

theorem serialNibble_toNat : ∀ (a b : Bool) (k : BitVec 2),
    (BitVec.ofBool a ++ BitVec.ofBool b ++ k).toNat = 8 * a.toNat + 4 * b.toNat + k.toNat := by decide

/-- Settles O29: the mode registers' values, and `poke_plain` for the fourteen plain registers. -/
theorem controlRegistersReadBack : Obligations.ControlRegistersReadBack := by
  intro s
  refine ⟨?_, serialNibble_toNat _ _ _, modeNibble_toNat _ _, modeNibble_toNat _ _, modeNibble_toNat _ _, ?_,
    fun e he => ?_⟩
  · exact (by decide : ∀ k : BitVec 3, ((0 : BitVec 1) ++ k).toNat = k.toNat) s.sp
  · exact (by decide : ∀ k : BitVec 2, ((0 : BitVec 2) ++ k).toNat = k.toNat) s.iegmd
  · simp only [List.mem_cons, List.not_mem_nil, or_false] at he
    rcases he with rfl | rfl | rfl | rfl | rfl | rfl | rfl | rfl | rfl | rfl | rfl | rfl | rfl | rfl
    all_goals exact poke_plain s _ _ (by decide) rfl

/-! ### Registers that a POKE leaves alone -/

theorem CtrlReg.addr_used (c : CtrlReg) : c = .unused ∨ c.addr ∈
    ([0x01, 0x02, 0x03, 0x0B, 0x0C, 0x0D, 0x0F, 0x11, 0x12, 0x13, 0x1B, 0x1C, 0x1F, 0x20, 0x21, 0x22, 0x2B, 0x2C,
      0x2E, 0x2F, 0x3B, 0x3C, 0x3D, 0x3E, 0x3F] : List DAddr) := by
  cases c <;> decide

/-- Bit 2 of a timer's mode register is a trigger, which reads 0 (R112). -/
theorem modeNibble_trigger : ∀ (b : Bool) (k : BitVec 2),
    (BitVec.ofBool b ++ (0 : BitVec 1) ++ k).getLsbD 2 = false := by decide

/-- Settles O30: the unused addresses have one entry of the map, whose write keeps the state. -/
theorem controlRegistersFixed : Obligations.ControlRegistersFixed := by
  intro s
  refine ⟨fun a ha hn => ⟨exec_poke_ok s s a ha ?_, _, rfl⟩, rfl, ?_, rfl, rfl, modeNibble_trigger _ _,
    modeNibble_trigger _ _, modeNibble_trigger _ _⟩
  · have hu : ctrlReg a = .unused := (ctrlReg_addr a).elim id fun e =>
      (CtrlReg.addr_used (ctrlReg a)).resolve_right (e.symm ▸ hn)
    rw [hu]
    rfl
  · exact (by decide : ∀ b : Bool, bit0 b = if b then 1 else 0) (pinInt s)

/-! ### SP, the edge selection -/

/-- Settles O31: the two cases of `writeSp`. -/
theorem stackPointerPoke : Obligations.StackPointerPoke := by
  refine fun s => ⟨fun h => exec_poke_ok s _ 0x01 (by decide) ?_, fun h => exec_poke_ok s _ 0x01 (by decide) ?_⟩
  · exact congrArg Except.ok (if_neg (Nat.not_le_of_lt (Nat.lt_succ_of_le h)))
  · exact congrArg Except.ok (if_pos h)

/-- The edges that IEGMD selects (R59, R450): rising, falling, both; none by the reserved code. -/
theorem intEdgeSelected_iff (s : State) :
    intEdgeSelected s = true ↔
      (s.intPrev = false ∧ pinInt s = true ∧ (s.iegmd = 0 ∨ s.iegmd = 2)) ∨
      (s.intPrev = true ∧ pinInt s = false ∧ (s.iegmd = 1 ∨ s.iegmd = 2)) := by
  have codes : ∀ k : BitVec 2, k = 0 ∨ k = 1 ∨ k = 2 ∨ k = 3 := by decide
  unfold intEdgeSelected intRises intFalls
  rcases codes s.iegmd with h | h | h | h <;> rw [h] <;> cases s.intPrev <;> cases pinInt s <;> decide

/-- Settles O60: IRQ keeps what it holds and takes the edge selected; IEGMD's reserved code is refused (D9). -/
theorem intEdges : Obligations.IntEdges := by
  intro s
  refine ⟨?_, rfl, fun h => exec_poke_ok s _ 0x1F (by decide) ((ctrlWrite_intEdge s s.wr).trans (if_neg h)), fun h => ?_⟩
  · show (s.irq.int || intEdgeSelected s) = true ↔ _
    rw [Bool.or_eq_true, intEdgeSelected_iff]
  · rw [exec_poke_ctrl s 0x1F (by decide)]
    exact congrArg outcomeOf ((ctrlWrite_intEdge s s.wr).trans (if_pos h))

end Sys2Proof.Machine
end

section
/-! The mode registers of the peripherals (O52, O53, O57, O59): what writing each does. -/

namespace Sys2Proof.Machine

/-! ### Timers -/

/-- A divided clock is low in the first half of its period (R360). -/
theorem prescaler_low (p : BitVec 10) (k : Nat) : (!p.getLsbD k) = decide (p.toNat % 2 ^ (k + 1) < 2 ^ k) := by
  have hlt : p.toNat % 2 ^ k < 2 ^ k := Nat.mod_lt _ (Nat.two_pow_pos k)
  have hmod : p.toNat % 2 ^ (k + 1) = p.toNat % 2 ^ k + 2 ^ k * (p.toNat / 2 ^ k % 2) := Nat.mod_pow_succ
  rw [← BitVec.testBit_toNat, Nat.testBit_eq_decide_div_mod_eq, hmod]
  rcases Nat.mod_two_eq_zero_or_one (p.toNat / 2 ^ k) with h | h <;> rw [h] <;> simp [hlt]

theorem tm0StartsLow_eq (s : State) (ck : BitVec 2) :
    tm0StartsLow s ck = match ck.toNat with
      | 1 => decide (s.prescaler.toNat % 32 < 16)
      | 2 => decide (s.prescaler.toNat % 4 < 2)
      | _ => false := by
  unfold tm0StartsLow
  rw [prescaler_low _ 4, prescaler_low _ 1]
  rfl

theorem tm1StartsLow_eq (s : State) (ck : BitVec 2) :
    tm1StartsLow s ck = match ck.toNat with
      | 0 => decide (s.prescaler.toNat % 8 < 4)
      | 1 => decide (s.prescaler.toNat % 512 < 256)
      | _ => false := by
  unfold tm1StartsLow
  rw [prescaler_low _ 2, prescaler_low _ 8]
  rfl

/-- TM0RES = 1 clears the count and the request, and makes no count (R364, R367). -/
theorem writeTm0Mode_res (s : State) (v : Nibble) (h : v.getLsbD 2 = true) :
    writeTm0Mode s v = { s with
      tm0 := { s.tm0 with en := v.getLsbD 3, ck := v.extractLsb' 0 2, count := 0 }
      irq := { s.irq with tm0 := false } } := if_pos h

/-- Without TM0RES the mode is written, and a start of the stopped timer may count at once. -/
theorem writeTm0Mode_keep (s : State) (v : Nibble) (h : v.getLsbD 2 = false) :
    writeTm0Mode s v =
      (let t := { s with tm0 := { s.tm0 with en := v.getLsbD 3, ck := v.extractLsb' 0 2 } }
       if !s.tm0.en && v.getLsbD 3 && tm0StartsLow s (v.extractLsb' 0 2) then tm0Pulse t else t) :=
  if_neg (by rw [h]; exact Bool.false_ne_true)

theorem writeTm1Mode_res (s : State) (v : Nibble) (h : v.getLsbD 2 = true) :
    writeTm1Mode s v = { s with
      tm1 := { s.tm1 with en := v.getLsbD 3, ck := v.extractLsb' 0 2, count := 0 }
      irq := { s.irq with tm1 := false }, tm1Out := true } := if_pos h

theorem writeTm1Mode_keep (s : State) (v : Nibble) (h : v.getLsbD 2 = false) :
    writeTm1Mode s v =
      (let t := { s with tm1 := { s.tm1 with en := v.getLsbD 3, ck := v.extractLsb' 0 2 } }
       if !s.tm1.en && v.getLsbD 3 && tm1StartsLow s (v.extractLsb' 0 2) then tm1Pulse t else t) :=
  if_neg (by rw [h]; exact Bool.false_ne_true)

/-- A start of the stopped timer 0 (R367; log 12). -/
theorem writeTm0Mode_start (s : State) (v : Nibble) (h : v.getLsbD 2 = false) (he : s.tm0.en = false)
    (hv : v.getLsbD 3 = true) :
    writeTm0Mode s v =
      (let t := { s with tm0 := { s.tm0 with en := true, ck := v.extractLsb' 0 2 } }
       if tm0StartsLow s (v.extractLsb' 0 2) then tm0Pulse t else t) := by
  rw [writeTm0Mode_keep s v h, he, hv]
  rfl

theorem writeTm1Mode_start (s : State) (v : Nibble) (h : v.getLsbD 2 = false) (he : s.tm1.en = false)
    (hv : v.getLsbD 3 = true) :
    writeTm1Mode s v =
      (let t := { s with tm1 := { s.tm1 with en := true, ck := v.extractLsb' 0 2 } }
       if tm1StartsLow s (v.extractLsb' 0 2) then tm1Pulse t else t) := by
  rw [writeTm1Mode_keep s v h, he, hv]
  rfl

/-- No start: the timer ran already, or stays stopped. -/
theorem noStart {en on : Bool} (low : Bool) (h : en = true ∨ on = false) : ¬ (!en && on && low) = true := by
  rcases h with rfl | rfl <;> simp

/-- What a first count at once may do to timer 0 and, by its match, to timer 1. -/
theorem tm0Pulse_if (s : State) (b : Bool) :
    let t := if b then tm0Pulse s else s
    t.tm0 = timerAfter s.tm0 b ∧ t.irq.tm0 = (s.irq.tm0 || timerMatches s.tm0 b) ∧
      { t with
        tm0 := s.tm0, tm1 := { t.tm1 with count := s.tm1.count }, tm1Out := s.tm1Out,
        irq := { t.irq with tm0 := s.irq.tm0, tm1 := s.irq.tm1 } } = s := by
  cases b
  · exact ⟨(timerAfter_none _).symm, by rw [timerMatches_none, Bool.or_false]; rfl, rfl⟩
  · rw [if_pos rfl, tm0Pulse_eq]
    exact ⟨rfl, rfl, rfl⟩

/-- What a first count at once may do to timer 1. -/
theorem tm1Pulse_if (s : State) (b : Bool) :
    let t := if b then tm1Pulse s else s
    (s.mode = .run → t.tm1 = timerAfter s.tm1 b ∧ t.irq.tm1 = (s.irq.tm1 || timerMatches s.tm1 b) ∧
      t.tm1Out = (s.tm1Out ^^ timerMatches s.tm1 b)) ∧
    t.tm1.en = s.tm1.en ∧ t.tm1.ck = s.tm1.ck ∧ t.tm1.modulo = s.tm1.modulo ∧
      { t with tm1 := s.tm1, tm1Out := s.tm1Out, irq := { t.irq with tm1 := s.irq.tm1 } } = s := by
  cases b
  · refine ⟨fun _ => ?_, rfl, rfl, rfl, rfl⟩
    rw [timerAfter_none, timerMatches_none, Bool.or_false, Bool.xor_false]
    exact ⟨rfl, rfl, rfl⟩
  · rw [if_pos rfl, tm1Pulse_eq]
    refine ⟨fun hm => ?_, rfl, rfl, rfl, rfl⟩
    have hf : tm1Free s = true := by
      unfold tm1Free
      rw [hm]
    rw [hf]
    exact ⟨rfl, rfl, rfl⟩

/-- Settles O52: TMnRES first; without it a start of a stopped timer is `tm0Pulse_if`, `tm1Pulse_if` on the mode as
written. -/
theorem timerModeWrites : Obligations.TimerModeWrites := by
  intro s
  have poke0 : exec (.poke 0x11) s = .next (writeTm0Mode s s.wr) := rfl
  have poke1 : exec (.poke 0x12) s = .next (writeTm1Mode s s.wr) := rfl
  have poke2 : exec (.poke 0x13) s = .next (writeBtmMode s s.wr) := rfl
  refine ⟨fun h => ⟨?_, ?_, ?_⟩, fun h => ⟨fun hk => ?_, fun hk => ?_, ?_, fun he hv => ?_, fun he hv => ?_⟩⟩
  · rw [poke0, writeTm0Mode_res s _ h]
  · rw [poke1, writeTm1Mode_res s _ h]
  · exact poke2.trans (congrArg Host.Outcome.next (if_pos h))
  · rw [poke0, writeTm0Mode_keep s _ h]
    exact congrArg Host.Outcome.next (if_neg (noStart _ hk))
  · rw [poke1, writeTm1Mode_keep s _ h]
    exact congrArg Host.Outcome.next (if_neg (noStart _ hk))
  · exact poke2.trans (congrArg Host.Outcome.next (if_neg (by rw [h]; exact Bool.false_ne_true)))
  · intro started low
    have e : writeTm0Mode s s.wr = if low then tm0Pulse started else started :=
      (writeTm0Mode_start s _ h he hv).trans (congrArg (fun b : Bool => if b then tm0Pulse started else started)
        (tm0StartsLow_eq s _))
    obtain ⟨count, request, frame⟩ := tm0Pulse_if started low
    rw [← e] at count request frame
    exact ⟨_, poke0, count, request, e, congrArg (fun z : State => { z with tm0 := s.tm0 }) frame⟩
  · intro started low
    have e : writeTm1Mode s s.wr = if low then tm1Pulse started else started :=
      (writeTm1Mode_start s _ h he hv).trans (congrArg (fun b : Bool => if b then tm1Pulse started else started)
        (tm1StartsLow_eq s _))
    obtain ⟨run, en, ck, modulo, frame⟩ := tm1Pulse_if started low
    rw [← e] at run en ck modulo frame
    exact ⟨_, poke1, e, run, en, ck, modulo, congrArg (fun z : State => { z with tm1 := s.tm1 }) frame⟩

/-! ### The watchdog -/

/-- WDTRES clears the carry in its window (R382, R383). -/
theorem resetWdtCarry_eq (b : Btm) :
    resetWdtCarry b =
      { b with wdtCarry := !decide (8 ≤ (wdtCount b).toNat ∧ (wdtCount b).toNat ≤ 191) && b.wdtCarry } := by
  unfold resetWdtCarry
  split <;> rename_i h
  · rw [decide_eq_true h]
    rfl
  · rw [decide_eq_false h]
    rfl

/-- WDTEN sets the carry of a watchdog that is on, in counts 0 to 7. -/
theorem enableWdt_on (s : State) (h : s.btm.wdtEn = true) :
    enableWdt s = { s.btm with wdtCarry := decide ((wdtCount s.btm).toNat < 8) || s.btm.wdtCarry } := by
  unfold enableWdt
  rw [if_pos h]
  split <;> rename_i hw
  · rw [decide_eq_true hw]
    rfl
  · rw [decide_eq_false hw]
    rfl

/-- WDTEN turns on a watchdog that is off; its carry is unspecified from count 8 on (log 14). -/
theorem enableWdt_off (s : State) (h : s.btm.wdtEn = false) :
    enableWdt s = { s.btm with
      wdtEn := true, wdtDiv := false, wdtCarry := decide (s.btm.cnt.toNat < 8) || s.drawBit .wdtCarry } := by
  unfold enableWdt
  rw [if_neg (by rw [h]; exact Bool.false_ne_true)]
  split <;> rename_i hw
  · rw [decide_eq_true hw]
    rfl
  · rw [decide_eq_false hw]
    rfl

/-- What WDTRES and WDTEN together make of the carry of a watchdog that is on. -/
theorem writeWdt_on (s : State) (v : Nibble) (h : s.btm.wdtEn = true) :
    let w := (wdtCount s.btm).toNat
    writeWdt s v = { s with btm := { s.btm with
      wdtCarry := (if v.getLsbD 3 && decide (8 ≤ w ∧ w ≤ 191) then false
        else if v.getLsbD 0 && decide (w < 8) then true else s.btm.wdtCarry) } } := by
  intro w
  have hen : (if v.getLsbD 0 then enableWdt s else s.btm) =
      { s.btm with wdtCarry := if v.getLsbD 0 && decide (w < 8) then true else s.btm.wdtCarry } := by
    rw [enableWdt_on s h]
    cases v.getLsbD 0
    · rfl
    · simp only [if_true, Bool.true_and, Bool.if_true_left, Bool.decide_eq_true]
      rfl
  unfold writeWdt
  simp only [hen]
  cases v.getLsbD 3
  · rfl
  · show ({ s with btm := resetWdtCarry _ } : State) = _
    rw [resetWdtCarry_eq]
    show ({ s with btm := { s.btm with wdtCarry := !decide (8 ≤ w ∧ w ≤ 191) && _ } } : State) = _
    cases decide (8 ≤ w ∧ w ≤ 191) <;> rfl

/-- WDTEN = 1 to a watchdog that is off: its count is the interval timer's, below 128, where WDTRES clears the carry from 8
on. -/
theorem writeWdt_off_enable (s : State) (v : Nibble) (h : s.btm.wdtEn = false) (hv : v.getLsbD 0 = true) :
    writeWdt s v = { s with btm := { s.btm with
      wdtEn := true
      wdtDiv := false
      wdtCarry := if s.btm.cnt.toNat < 8 then true else !v.getLsbD 3 && s.drawBit .wdtCarry } } := by
  have hc : ∀ e y, (wdtCount { s.btm with wdtEn := e, wdtDiv := false, wdtCarry := y }).toNat = s.btm.cnt.toNat := by
    intro e y
    show (BitVec.ofBool false ++ s.btm.cnt : Byte).toNat = _
    rw [BitVec.toNat_append]
    simp
  have hlt : s.btm.cnt.toNat < 128 := s.btm.cnt.isLt
  unfold writeWdt
  simp only [hv, if_true, enableWdt_off s h, resetWdtCarry_eq, hc]
  by_cases h8 : s.btm.cnt.toNat < 8
  · have hw : ¬ (8 ≤ s.btm.cnt.toNat ∧ s.btm.cnt.toNat ≤ 191) := by omega
    simp [h8, hw]
  · have hw : 8 ≤ s.btm.cnt.toNat ∧ s.btm.cnt.toNat ≤ 191 := by omega
    cases v.getLsbD 3 <;> simp [h8, hw]

/-- WDTEN = 0 to a watchdog that is off: nothing, but WDTRES in its window clears the carry. -/
theorem writeWdt_off_stay (s : State) (v : Nibble) (hv : v.getLsbD 0 = false) :
    let w := (wdtCount s.btm).toNat
    writeWdt s v = { s with btm := { s.btm with
      wdtCarry := !(v.getLsbD 3 && decide (8 ≤ w ∧ w ≤ 191)) && s.btm.wdtCarry } } := by
  intro w
  unfold writeWdt
  simp only [hv, Bool.false_eq_true, if_false]
  cases v.getLsbD 3
  · rfl
  · rw [if_pos rfl, resetWdtCarry_eq]
    rfl

/-- Settles O53: a watchdog that is on, and one that is off with WDTEN written 0 or 1. -/
theorem watchdogWrites : Obligations.WatchdogWrites := by
  intro s wdtres wdten w window
  have poke : exec (.poke 0x03) s = .next (writeWdt s s.wr) := rfl
  refine ⟨fun hres hen => ?nothing, fun hon => ?on, fun hoff => ?off⟩
  case nothing =>
    rw [poke, writeWdt_off_stay s _ hen, show s.wr.getLsbD 3 = false from hres]
    rfl
  case on => rw [poke, writeWdt_on s _ hon]
  case off =>
    refine ⟨_, poke, ?_⟩
    cases hen : wdten
    · rw [writeWdt_off_stay s _ hen]
      refine ⟨hoff, rfl, rfl, rfl, rfl, fun _ => ⟨rfl, fun h => ?_⟩, nofun⟩
      have hk : (s.wr.getLsbD 3 && window) = false := by
        rcases h with h | h
        · rw [show s.wr.getLsbD 3 = false from h]
          rfl
        · rw [h, Bool.and_false]
      show ({ s with btm := { s.btm with wdtCarry := !(s.wr.getLsbD 3 && window) && s.btm.wdtCarry } } : State) = s
      rw [hk]
      rfl
    · rw [writeWdt_off_enable s _ hoff hen]
      exact ⟨rfl, rfl, rfl, rfl, rfl, nofun, fun _ => ⟨rfl, rfl⟩⟩

/-! ### The converter -/

/-- The sequencer after a register of a running conversion is written: it goes on, spoilt where the register changed
(R394 (d), D24). -/
theorem seq_goesOn (q : AdcSeq) (same : Prop) [Decidable same] :
    let r := if same then q else q.taint
    (q = .idle → r = .idle) ∧ (∀ n b, q = .continuous n b → r = .continuous n (b || decide (¬ same))) ∧
      (∀ n b, q = .single n b → r = .single n (b || decide (¬ same))) := by
  by_cases h : same
  · simp only [h, if_true, not_true_eq_false, decide_false, Bool.or_false]
    exact ⟨id, fun _ _ => id, fun _ _ => id⟩
  · simp only [h, if_false, not_false_eq_true, decide_true, Bool.or_true]
    refine ⟨?_, fun n b => ?_, fun n b => ?_⟩ <;> (intro e; rw [e]; rfl)

theorem adcModeNibble_toNat : ∀ a c e : Bool,
    (nibbleOf a false c e).toNat = 8 * a.toNat + 2 * c.toNat + e.toNat := by decide

/-- Settles O57: three writes of the map, of which `seq_goesOn` says what becomes of a conversion. -/
theorem converterRegisters : Obligations.ConverterRegisters := by
  intro s goesOn
  exact ⟨fun h => exec_poke_ok s s 0x20 (by decide) (congrArg Except.ok (if_neg (by rw [h]; exact Bool.false_ne_true))),
    ⟨_, rfl, seq_goesOn s.adc.seq _⟩, ⟨_, rfl, seq_goesOn s.adc.seq _⟩, adcModeNibble_toNat _ _ _, rfl⟩

/-! ### The serial interface -/

theorem serialNibble_split : ∀ v : Nibble,
    BitVec.ofBool (v.getLsbD 3) ++ BitVec.ofBool (v.getLsbD 2) ++ v.extractLsb' 0 2 = v := by decide

/-- SIOTS = 1 with SIOEN = 1 starts a transfer (R412). -/
theorem writeSioMode_start (s : State) (v : Nibble) (h : v.getLsbD 3 = true) (he : s.ports.sioen = true) :
    writeSioMode s v = .ok { s with
      sio := { s.sio with
        hiz := v.getLsbD 2, ck := v.extractLsb' 0 2, sfr := sioKept s
        ts := true, cnt := 0, sckLow := false, tainted := false }
      irq := { s.irq with sio := false } } :=
  (if_pos h).trans (if_pos he)

/-- SIOTS = 1 with SIOEN = 0 is refused (D25). -/
theorem writeSioMode_refused (s : State) (v : Nibble) (h : v.getLsbD 3 = true) (he : s.ports.sioen = false) :
    writeSioMode s v = .error .serialDisabled :=
  (if_pos h).trans (if_neg (by rw [he]; exact Bool.false_ne_true))

/-- SIOTS = 0 stops a transfer (R412). -/
theorem writeSioMode_stop (s : State) (v : Nibble) (h : v.getLsbD 3 = false) :
    writeSioMode s v = .ok { s with
      sio := { s.sio with
        hiz := v.getLsbD 2, ck := v.extractLsb' 0 2, sfr := sioKept s, ts := false, tainted := false } } :=
  if_neg (by rw [h]; exact Bool.false_ne_true)

/-- The mode register reads as the bits it holds. -/
theorem rfRead_sioMode (t : State) (v : Nibble) (hts : t.sio.ts = v.getLsbD 3) (hhiz : t.sio.hiz = v.getLsbD 2)
    (hck : t.sio.ck = v.extractLsb' 0 2) : rfRead t 0x02 = v := by
  show BitVec.ofBool t.sio.ts ++ BitVec.ofBool t.sio.hiz ++ t.sio.ck = v
  rw [hts, hhiz, hck]
  exact serialNibble_split v

/-- Settles O59: the three cases of `writeSioMode`. -/
theorem serialStartAndStop : Obligations.SerialStartAndStop := by
  refine fun s => ⟨fun h he => ?start, fun h he => ?refused, fun h => ?stop⟩
  case start =>
    exact ⟨_, exec_poke_ok s _ 0x02 (by decide) (writeSioMode_start s s.wr h he), rfl, rfl, rfl, rfl, rfl, rfl,
      rfRead_sioMode _ s.wr h.symm rfl rfl, sioKept_clean s, rfl, rfl⟩
  case refused =>
    rw [exec_poke_ctrl s 0x02 (by decide)]
    exact congrArg outcomeOf (writeSioMode_refused s s.wr h he)
  case stop =>
    exact ⟨_, exec_poke_ok s _ 0x02 (by decide) (writeSioMode_stop s s.wr h), rfl, rfl, rfl,
      rfRead_sioMode _ s.wr h.symm rfl rfl, sioKept_clean s, rfl, rfl⟩

end Sys2Proof.Machine
end

section
/-! The watchdog's count and its reset (O54). -/

namespace Sys2Proof.Machine

/-- The carry after a pulse: set in counts 0 to 7 of an enabled watchdog (R383). -/
theorem btmNext_carry (b : Btm) (h : b.wdtEn = true) :
    (btmNext b).wdtCarry = (decide ((wdtCount b + 1).toNat < 8) || b.wdtCarry) := by
  show (if b.wdtEn && decide ((wdtCount b + 1).toNat < 8) then true else b.wdtCarry) = _
  rw [h, Bool.true_and, Bool.if_true_left, Bool.decide_eq_true]

/-- WDT_DIV is held at 0 while the watchdog is off (R383). -/
theorem btmNext_off (b : Btm) (h : b.wdtEn = false) : (btmNext b).wdtDiv = false ∧ (btmNext b).wdtEn = false := by
  refine ⟨?_, h⟩
  show (b.wdtEn && _) = false
  rw [h, Bool.false_and]

/-- The pulse at 191 is the one whose count is 192. -/
theorem wdtCount_last (w : Byte) : decide (w = 191) = decide (w + 1 = 192) := by
  rw [decide_eq_decide]
  constructor
  · rintro rfl
    rfl
  · intro h
    have := congrArg (· - 1) h
    simpa using this

/-- The low seven bits of the watchdog's count are the interval timer's. -/
theorem wdtCount_mod (b : Btm) : (wdtCount b + 1).toNat % 128 = (b.cnt + 1).toNat := by
  have h : ∀ (d : Bool) (c : BitVec 7), (BitVec.ofBool d ++ c + 1 : Byte).toNat % 128 = (c + 1).toNat := by decide
  exact h b.wdtDiv b.cnt

/-- The interval timer's interval is the watchdog's count modulo 32 or 128 (R381). -/
theorem btmInterval_eq (b : Btm) :
    btmInterval b.isel (b.cnt + 1) = decide ((wdtCount b + 1).toNat % (if b.isel then 32 else 128) = 0) := by
  unfold btmInterval
  cases b.isel
  · simp only [Bool.false_eq_true, if_false, wdtCount_mod, decide_eq_decide, ← BitVec.toNat_inj]
    rfl
  · have h32 : (wdtCount b + 1).toNat % 32 = (b.cnt + 1).toNat % 32 := by
      rw [← wdtCount_mod, Nat.mod_mod_of_dvd _ (by decide : 32 ∣ 128)]
    simp only [if_true, h32, decide_eq_decide, ← BitVec.toNat_inj, BitVec.extractLsb'_toNat, Nat.shiftRight_zero]
    rfl

/-- One pulse: the watchdog's reset, or a count with the request it may make. -/
theorem btmPulse_eq (s : State) :
    btmPulse s =
      (let t := { s with
         btm := btmNext s.btm
         irq := { s.irq with btm := s.irq.btm || btmInterval s.btm.isel (s.btm.cnt + 1) } }
       if s.btm.wdtEn && s.btm.wdtCarry && decide (wdtCount s.btm + 1 = 192) then applyReset .wdt t else t) := by
  rw [← wdtCount_last, ← wdtFires_btmNext]
  rfl

/-- Settles O54: a pulse by `btmPulse_eq`, with the watchdog on and off, and a clocked cycle by `clockedCycle_to`. -/
theorem watchdogResets : Obligations.WatchdogResets := by
  intro s hr w carry
  refine ⟨fun hen => ?on, fun hoff => ?off, ?cycle⟩
  case on =>
    have e := btmPulse_eq s
    rw [hen, Bool.true_and] at e
    cases hf : s.btm.wdtCarry && decide (wdtCount s.btm + 1 = 192)
    · rw [hf] at e
      rw [e]
      refine ⟨hr, fun h => ?_, fun _ => ⟨wdtCount_btmNext _ hen, btmNext_carry _ hen, hen, rfl, rfl, ?_, rfl⟩⟩
      · rw [show s.rstSig = true from h] at hr
        cases hr
      · exact congrArg (s.irq.btm || ·) (btmInterval_eq s.btm)
    · rw [hf] at e
      rw [e]
      exact ⟨rfl, fun _ => ⟨rfl, rfl, rfl, rfl, rfl⟩, nofun⟩
  case off =>
    have e := btmPulse_eq s
    rw [hoff, Bool.false_and, Bool.false_and] at e
    rw [e]
    exact ⟨hr, btmNext_off _ hoff⟩
  case cycle =>
    obtain ⟨x, hx, e⟩ := clockedCycle_to s
    cases hw : wdtResetsNext s
    · rw [hw, if_neg Bool.false_ne_true] at e
      rw [e]
      refine ⟨(hx.field State.rstSig fun _ _ => rfl).trans hr, nofun, fun _ => ⟨fun hp hen => ?_, fun hp hoff => ?_,
        fun hp => ?_⟩⟩
      · rw [hx.btm, if_pos hp]
        exact ⟨wdtCount_btmNext _ hen, btmNext_carry _ hen, hen⟩
      · rw [hx.btm, if_pos hp]
        exact btmNext_off _ hoff
      · rw [hx.btm, if_neg (by rw [hp]; exact Bool.false_ne_true)]
    · rw [hw, if_pos rfl] at e
      rw [e]
      exact ⟨rfl, fun _ => ⟨rfl, rfl, rfl, rfl, x, rfl, hx.quiet⟩, nofun⟩

end Sys2Proof.Machine
end

section
/-! Program memory and the chip's parameters under a step (O11), the operands' addresses (O14), the register file from 40H up
(O28) and the peripheral registers (O32, O33). -/

namespace Sys2Proof.Machine

/-! ### Program memory and parameters: the operations of an instruction -/

/-- What no step writes: program memory (R102) and the parameters of the chip (log 1). -/
def programOf (s : State) : Memory × Config := (s.rom, s.cfg)

theorem programOf_eq_iff (s t : State) : programOf t = programOf s ↔ t.rom = s.rom ∧ t.cfg = s.cfg := Prod.ext_iff

theorem programOf_applyReset (c : ResetCause) (s : State) : programOf (applyReset c s) = programOf s := rfl

theorem programOf_memWrite (s : State) (a : DAddr) (v : Nibble) : programOf (memWrite s a v) = programOf s :=
  (programOf_eq_iff s _).mpr ⟨memWrite_rom s a v, memWrite_cfg s a v⟩

theorem programOf_arithFinish (s : State) (a : DAddr) (x : AluOut) : programOf (arithFinish s a x) = programOf s := by
  unfold arithFinish
  split
  · rfl
  · exact programOf_memWrite _ a _

theorem programOf_skipIf (s : State) (c : Bool) : programOf (skipIf s c) = programOf s := by
  unfold skipIf
  split <;> rfl

theorem programOf_pushThen (s : State) (v : PAddr) (k : State → State) (hk : ∀ t, programOf (k t) = programOf t) :
    programOf (pushThen s v k) = programOf s := by
  rcases pushThen_cases s v k with e | ⟨_, e⟩
  · rw [e, programOf_applyReset]
  · rw [e, hk]
    rfl

theorem programOf_popThen (s : State) (k : PAddr → State → State) (hk : ∀ v t, programOf (k v t) = programOf t) :
    programOf (popThen s k) = programOf s := by
  rcases popThen_cases s k with e | ⟨_, e⟩
  · rw [e, programOf_applyReset]
  · rw [e, hk]
    rfl

theorem programOf_returnFromInterrupt (s : State) : programOf (returnFromInterrupt s) = programOf s := by
  unfold returnFromInterrupt
  exact programOf_popThen s _ fun _ _ => rfl

/-- What the hardware changes by itself is neither program memory nor a parameter. -/
theorem programOf_of_quiet {s t : State} (h : quietView t = quietView s) : programOf t = programOf s :=
  quietView_field programOf s t h fun _ => rfl

theorem programOf_tm0Pulse (s : State) : programOf (tm0Pulse s) = programOf s := programOf_of_quiet (quiet_tm0Pulse s)

theorem programOf_tm1Pulse (s : State) : programOf (tm1Pulse s) = programOf s := programOf_of_quiet (quiet_tm1Pulse s)

/-! ### Program memory and parameters: the registers of the peripherals -/

theorem programOf_writeTm0Mode (s : State) (v : Nibble) : programOf (writeTm0Mode s v) = programOf s := by
  unfold writeTm0Mode
  split
  · rfl
  split
  · exact programOf_tm0Pulse _
  · rfl

theorem programOf_writeTm1Mode (s : State) (v : Nibble) : programOf (writeTm1Mode s v) = programOf s := by
  unfold writeTm1Mode
  split
  · rfl
  split
  · exact programOf_tm1Pulse _
  · rfl

theorem programOf_writeBtmMode (s : State) (v : Nibble) : programOf (writeBtmMode s v) = programOf s := by
  unfold writeBtmMode
  split <;> rfl

theorem programOf_writeSioMode (s t : State) (v : Nibble) (e : writeSioMode s v = .ok t) :
    programOf t = programOf s := by
  unfold writeSioMode at e
  split at e
  · split at e <;> cases e
    rfl
  · cases e
    rfl

theorem programOf_writeSp (s : State) (v : Nibble) : programOf (writeSp s v) = programOf s := by
  unfold writeSp
  split <;> rfl

theorem programOf_adcStart (s : State) : programOf (adcStart s) = programOf s := by
  unfold adcStart
  split <;> rfl

theorem programOf_writeAdcr (s : State) (v : Byte) : programOf (writeAdcr s v) = programOf s := by
  unfold writeAdcr
  split <;> rfl

theorem programOf_ctrlWrite (s t : State) (c : CtrlReg) (v : Nibble) (e : ctrlWrite s c v = .ok t) :
    programOf t = programOf s := by
  cases c
  case sioMode => exact programOf_writeSioMode s t v e
  case intEdge =>
    rw [ctrlWrite_intEdge] at e
    split at e <;> cases e
    rfl
  case sp => cases e; exact programOf_writeSp s v
  case tm0Mode => cases e; exact programOf_writeTm0Mode s v
  case tm1Mode => cases e; exact programOf_writeTm1Mode s v
  case btmMode => cases e; exact programOf_writeBtmMode s v
  case adcTrigger =>
    cases e
    split
    · exact programOf_adcStart s
    · rfl
  all_goals cases e; rfl

theorem programOf_rfWrite (s t : State) (a : DAddr) (v : Nibble) (e : rfWrite s a v = .ok t) :
    programOf t = programOf s := by
  unfold rfWrite at e
  split at e
  · cases e
    exact programOf_memWrite s a v
  · exact programOf_ctrlWrite s t _ v e

theorem programOf_periRead (s t : State) (p : PeriReg) (e : periRead s p = .ok t) : programOf t = programOf s := by
  cases p
  case unassigned => cases e
  case siosfr | tm0m | tm1m | adcr | ar | tm0tm1c => cases e; rfl

theorem programOf_periWrite (s t : State) (p : PeriReg) (w : Word) (e : periWrite s p w = .ok t) :
    programOf t = programOf s := by
  cases p
  case tm0m =>
    rw [periWrite_tm0m] at e
    split at e <;> cases e
    rfl
  case tm1m =>
    rw [periWrite_tm1m] at e
    split at e <;> cases e
    rfl
  case adcr => cases e; exact programOf_writeAdcr s _
  case unassigned => cases e
  case siosfr | ar | tm0tm1c => cases e; rfl

/-! ### Program memory and parameters: every instruction -/

theorem programOf_execStop (c : Nibble) (s t : State) (e : execStop c s = .next t) : programOf t = programOf s := by
  rcases execStop_next c s t e with rfl | rfl | ⟨_, _, rfl⟩ <;> rfl

theorem programOf_execHalt (c : Nibble) (s t : State) (e : execHalt c s = .next t) : programOf t = programOf s := by
  rcases execHalt_next c s t e with rfl | ⟨_, rfl⟩ <;> rfl

/-- Even MOVT, which reads program memory, writes only DBF. -/
theorem programOf_exec (i : Instr) (s t : State) (e : exec i s = .next t) : programOf t = programOf s := by
  cases i
  case addR | addI | addcR | addcI | subR | subI | subcR | subcI => cases e; exact programOf_arithFinish s _ _
  case orR | orI | andR | andI | xorR | xorI | ld | st | movIndDst | movIndSrc | movI | rorc =>
    cases e; exact programOf_memWrite _ _ _
  case skt | skf | ske | skne | skge | sklt => cases e; exact programOf_skipIf _ _
  case movt => cases e; exact programOf_pushThen s _ _ fun _ => programOf_popThen _ _ fun _ _ => rfl
  case pushAr | call | callAr => cases e; exact programOf_pushThen s _ _ fun _ => rfl
  case popAr | ret | retsk => cases e; exact programOf_popThen s _ fun _ _ => rfl
  case reti => cases e; exact programOf_returnFromInterrupt s
  case poke rf => exact programOf_rfWrite s t rf s.wr ((outcomeOf_next _ t).mp e)
  case get p => exact programOf_periRead s t (periReg p) ((outcomeOf_next _ t).mp e)
  case put p => exact programOf_periWrite s t (periReg p) (dbfRead s) ((outcomeOf_next _ t).mp e)
  case stop c => exact programOf_execStop c s t e
  case halt c => exact programOf_execHalt c s t e
  case incAr | incIx | peek | brPage0 | brPage1 | brAr | ei | di | nop => cases e; rfl

/-! ### Program memory and parameters: the parts of a step -/

theorem programOf_nextSample (s : State) : programOf (nextSample s) = programOf s :=
  programOf_of_quiet (quiet_nextSample s)

theorem programOf_stoppedCycle (s : State) : programOf (stoppedCycle s) = programOf s :=
  programOf_of_quiet (quiet_stoppedCycle s)

/-- A clocked cycle is the hardware's, or ends in a reset by the watchdog. -/
theorem programOf_clockedCycle (s : State) : programOf (clockedCycle s) = programOf s := by
  obtain ⟨x, hx, e⟩ := clockedCycle_to s
  have hp : programOf x = programOf s := hx.field programOf fun _ _ => rfl
  rw [e]
  split
  · exact (programOf_applyReset .wdt x).trans hp
  · exact hp

theorem programOf_passTime (n : Nat) (s : State) : programOf (passTime n s) = programOf s := by
  unfold passTime
  split
  · exact programOf_nextSample s
  split
  · exact programOf_stoppedCycle s
  · exact cycles_induct (fun u => programOf u = programOf s) (fun u hu => (programOf_clockedCycle u).trans hu) n s rfl

theorem programOf_takeInterrupt (x : IrqSource) (s : State) : programOf (takeInterrupt x s) = programOf s := by
  rcases takeInterrupt_cases x s with e | ⟨_, e⟩ <;> rw [e] <;> rfl

theorem programOf_acceptCycle (x : IrqSource) (s : State) : programOf (acceptCycle x s) = programOf s := by
  have ht := programOf_takeInterrupt x s
  have hu := (programOf_clockedCycle (takeInterrupt x s)).trans ht
  unfold acceptCycle
  simp only
  split
  · exact (programOf_nextSample _).trans ht
  split <;> exact hu

theorem programOf_acceptCheck (s : State) : programOf (acceptCheck s) = programOf s := by
  rcases acceptCheck_cases s with e | ⟨x, _, _, _, e⟩
  · rw [e]
  · rw [e, programOf_acceptCycle]

theorem programOf_endOfStep (wasEi pending : Bool) (f : IrqSet) (s : State) :
    programOf (endOfStep wasEi pending f s) = programOf s := by
  have hs : programOf (settleEi { s with irqDly := f }) = programOf s := by
    rw [settleEi_eq]
    rfl
  unfold endOfStep
  simp only
  split
  · rfl
  split
  · split <;> rfl
  split
  · exact (programOf_acceptCheck _).trans hs
  · exact hs

theorem programOf_completeStep (wasEi : Bool) (w : Word) (s t : State) :
    programOf (completeStep wasEi w s t) = programOf t := by
  unfold completeStep
  rw [programOf_endOfStep, programOf_passTime]

/-! ### Program memory and parameters: every kind of step -/

theorem programOf_holdReset (s : State) : programOf (holdReset s) = programOf s := programOf_nextSample s

theorem programOf_skipStep (s : State) : programOf (skipStep s) = programOf s := programOf_completeStep false _ s _

theorem programOf_haltCycle (c : Nibble) (s : State) : programOf (haltCycle c s) = programOf s := by
  have ht := programOf_clockedCycle s
  unfold haltCycle
  simp only
  split
  · exact ht
  split
  · exact (programOf_acceptCheck _).trans ht
  · exact ht

theorem programOf_stopCycle (c : Nibble) (s : State) : programOf (stopCycle c s) = programOf s := by
  have ht := programOf_stoppedCycle s
  unfold stopCycle
  simp only
  split <;> exact ht

theorem programOf_waitCycle (w : WaitFor) (g : Nat) (s : State) : programOf (waitCycle w g s) = programOf s := by
  cases g with
  | succ k => exact programOf_nextSample s
  | zero =>
    have ht := programOf_clockedCycle s
    unfold waitCycle
    simp only
    split
    · exact ht
    split
    · exact ht
    split
    · exact (programOf_acceptCheck _).trans ht
    · exact ht

theorem programOf_releaseReset (b o : Bool) (s : State) : programOf (releaseReset b o s) = programOf s :=
  programOf_nextSample (applyReset (if b then .rstB else .rstA) s)

/-- Settles O11: `step_cases` says which of seven steps was made, and each leaves `programOf`. -/
theorem stepKeepsProgram : Obligations.StepKeepsProgram := by
  intro s t e
  refine (programOf_eq_iff s t).mp ?_
  rcases step_cases s t e with rfl | ⟨_, _, rfl⟩ | ⟨i, u, _, _, he, rfl⟩ | ⟨c, _, rfl⟩ | ⟨c, _, rfl⟩ |
    ⟨w, g, _, rfl⟩ | ⟨b, o, _, rfl⟩
  · exact programOf_holdReset s
  · exact programOf_skipStep s
  · exact (programOf_completeStep _ _ s u).trans (programOf_exec i (afterFetch s) u he)
  · exact programOf_haltCycle c s
  · exact programOf_stopCycle c s
  · exact programOf_waitCycle w g s
  · exact programOf_releaseReset b o s

/-! ### The addresses of the operands -/

/-- A data address is its row and its column (R28). -/
theorem rowColumn_toNat : ∀ (row : BitVec 3) (column : Nibble),
    (row ++ column : DAddr).toNat = 16 * row.toNat + column.toNat := by decide

theorem row_toNat : ∀ a : DAddr, (a.extractLsb' 4 3).toNat = a.toNat / 16 := by decide

theorem gr_toNat (s : State) (r : Nibble) : (gr s r).toNat = 16 * s.rpRow.toNat + r.toNat := rowColumn_toNat _ _

theorem ia_toNat (s : State) (m : DAddr) (r : Nibble) :
    (ia s m r).toNat = 16 * (iaRow s m).toNat + (memRead s (gr s r)).toNat := rowColumn_toNat _ _

/-- MP's row, whatever IXE is (D16). -/
theorem iaRow_pointer (s : State) (m : DAddr) (h : s.mpe = true) : (iaRow s m).toNat = s.ix.toNat / 16 := by
  unfold iaRow
  rw [if_pos h, row_toNat]

/-- Without MP, the row is that of the operand's effective address (R107). -/
theorem iaRow_direct (s : State) (m : DAddr) (h : s.mpe = false) : (iaRow s m).toNat = (ea s m).toNat / 16 := by
  unfold iaRow ea
  rw [if_neg (by rw [h]; exact Bool.false_ne_true), ← row_toNat]
  split
  · rw [BitVec.extractLsb'_or]
  · rfl

theorem ea_plain (s : State) (m : DAddr) (h : s.psw.ixe = false) : ea s m = m :=
  if_neg (by rw [h]; exact Bool.false_ne_true)

theorem ea_indexed (s : State) (m : DAddr) (h : s.psw.ixe = true) : ea s m = m ||| s.ix := if_pos h

/-- Settles O14: the row of `@r` is MP's by `iaRow_pointer`, else that of the direct operand by `iaRow_direct`. -/
theorem operandAddresses : Obligations.OperandAddresses := by
  refine fun s r m => ⟨gr_toNat s r, ea_plain s m, ea_indexed s m, fun hp => ?_, fun hp hi => ?_, fun hp hi => ?_⟩
  · rw [ia_toNat, iaRow_pointer s m hp]
  · rw [ia_toNat, iaRow_direct s m hp, ea_plain s m hi]
  · rw [ia_toNat, iaRow_direct s m hp, ea_indexed s m hi]

/-! ### The register file from 40H up -/

theorem rfRead_memory (s : State) (a : DAddr) (h : 0x40 ≤ a.toNat) : rfRead s a = memRead s a := if_pos h

theorem exec_poke_memory (s : State) (a : DAddr) (h : 0x40 ≤ a.toNat) :
    exec (.poke a) s = .next (memWrite s a s.wr) := congrArg outcomeOf (if_pos h)

/-- Settles O28: a POKE from 40H up is a data-memory write of WR, whose effect is `memWrite_stored`. -/
theorem registerFileAlias : Obligations.RegisterFileAlias :=
  fun s rf => ⟨rfl, fun h => ⟨rfRead_memory s rf h, _, exec_poke_memory s rf h, memWrite_stored s rf s.wr⟩⟩

/-! ### The peripheral registers -/

/-- A GET of an 8-bit register loads DBF1 and DBF0 (R116). -/
theorem get_low (s : State) (p : DAddr) (v : Byte) (h : periRead s (periReg p) = .ok (dbfWriteLow s v)) :
    ∃ t, exec (.get p) s = .next t ∧ onlyDbf s t ∧ dbfRead t = (dbfRead s).extractLsb' 8 8 ++ v :=
  ⟨_, congrArg outcomeOf h, onlyDbf_dbfWriteLow s v, dbfRead_dbfWriteLow s v⟩

/-- A GET of a 16-bit register loads DBF whole (R116). -/
theorem get_whole (s : State) (p : DAddr) (v : Word) (h : periRead s (periReg p) = .ok (dbfWrite s v)) :
    ∃ t, exec (.get p) s = .next t ∧ onlyDbf s t ∧ dbfRead t = v :=
  ⟨_, congrArg outcomeOf h, onlyDbf_dbfWrite s v, dbfRead_dbfWrite s v⟩

/-- Outside a transfer SIOSFR reads as it is (R414). -/
theorem readSioShift_idle (s : State) (h : s.sio.ts = false) : readSioShift s = s.sio.sfr :=
  if_neg (by rw [h]; exact Bool.false_ne_true)

/-- AR as a peripheral register of 16 bits, the missing ones 0 (R114). -/
theorem ar_setWidth (a : PAddr) : a.setWidth 16 = (0 : Nibble) ++ a := BitVec.setWidth_eq_append (by decide)

/-- Settles O32: each assigned register is one entry of `periRead`, loaded low or whole. -/
theorem getLoadsDataBuffer : Obligations.GetLoadsDataBuffer := by
  refine fun s => ⟨fun h => get_low s 0x01 _ ?_, ⟨_, get_low s 0x01 _ rfl⟩, ⟨_, get_low s 0x02 _ rfl⟩,
    ⟨_, get_low s 0x03 _ rfl⟩, get_low s 0x04 _ rfl, get_whole s 0x40 _ ?_, get_whole s 0x45 _ rfl⟩
  · rw [← readSioShift_idle s h]
    rfl
  · rw [← ar_setWidth]
    rfl

/-- A PUT writes DBF to the register there (R257). -/
theorem exec_put_ok (s t : State) (p : DAddr) (e : periWrite s (periReg p) (dbfRead s) = .ok t) :
    exec (.put p) s = .next t := congrArg outcomeOf e

/-- Outside a transfer a PUT of SIOSFR spoils nothing (R414). -/
theorem writeSioShift_idle (s : State) (v : Byte) (ht : s.sio.ts = false) (hd : s.sio.tainted = false) :
    writeSioShift s v = { s with sio := { s.sio with sfr := v } } := by
  unfold writeSioShift
  rw [ht, hd, Bool.or_false, ← hd]

/-- While ADCSOFT is 0 a PUT of ADCR is ignored (R391). -/
theorem writeAdcr_ignored (s : State) (v : Byte) (h : s.adc.soft = false) : writeAdcr s v = s :=
  if_neg (by rw [h]; exact Bool.false_ne_true)

/-- While ADCSOFT is 1 it starts a single comparison with the value put (R393). -/
theorem writeAdcr_single (s : State) (v : Byte) (h : s.adc.soft = true) :
    writeAdcr s v = { s with adc := { s.adc with cmp := false, fin := false, adcr := v, seq := .single 0 false } } :=
  if_pos h

/-- Settles O33: each assigned register is one entry of `periWrite`. -/
theorem putWritesPeripheral : Obligations.PutWritesPeripheral := by
  refine fun s => ⟨fun ht hd => exec_put_ok s _ 0x01 ?_, fun h => exec_put_ok s _ 0x02 ?_,
    fun h => exec_put_ok s _ 0x03 ?_, fun h => exec_put_ok s _ 0x04 ?_,
    fun h => ⟨_, exec_put_ok s _ 0x04 rfl, ?_⟩, rfl, rfl⟩
  · exact congrArg Except.ok (writeSioShift_idle s _ ht hd)
  · exact (periWrite_tm0m s _).trans (if_neg h)
  · exact (periWrite_tm1m s _).trans (if_neg h)
  · exact congrArg Except.ok (writeAdcr_ignored s _ h)
  · rw [writeAdcr_single s _ h]
    exact ⟨rfl, rfl, nofun, rfl, h, rfl⟩

end Sys2Proof.Machine
end

section
/-! The encoding (O1, O2, O3, O4) and the unassigned word at PC (O6): decoding a word of each format, what a word that
decodes was encoded from, and which words do not decode. -/

namespace Sys2Proof

/-! ### Decoding an encoded word -/

/-- Format `G` (R144): the operation code 00111B leaves the rest to the group. -/
theorem decode_encodeG (p : Part) (high : BitVec 3) (sub low : Nibble) :
    decode p (encodeG high sub low) = decodeGroup sub high low := by
  unfold decode
  rw [wordOp_encodeG, wordHigh_encodeG, wordSub_encodeG, wordLow_encodeG]
  rfl

/-- Format `G` with a 7-bit address: the two halves that the group joins are those of the address (R142). -/
theorem decode_encodeRf (p : Part) {sub : Nibble} {f : DAddr → Instr} (a : DAddr)
    (h : ∀ high low, decodeGroup sub high low = .ok (f (high ++ low))) : decode p (encodeRf sub a) = .ok (f a) := by
  unfold encodeRf
  rw [decode_encodeG, h, rf_join]

/-! ### Encoding a decoded word -/

/-- Formats `RM` and `MI` (R141): the word again from its own fields. -/
theorem encodeM_of_op {w : Word} {op : BitVec 5} (h : (wordOp w).toNat = op.toNat) :
    encodeM op (wordM w) (wordLow w) = w := by
  rw [← BitVec.eq_of_toNat_eq h, word_split]

/-- Format `A` (R141), likewise. -/
theorem encodeA_of_op {w : Word} {op : BitVec 5} (h : (wordOp w).toNat = op.toNat) :
    encodeA op (wordAddr w) = w := by
  rw [← BitVec.eq_of_toNat_eq h, word_splitA]

/-- Format `G`, with the sub-operation and `bits[10:8]` known by the number that `decodeGroup` compares. -/
theorem encodeG_congr {high high' : BitVec 3} {sub sub' : Nibble} (low : Nibble) (hh : high.toNat = high'.toNat)
    (hs : sub.toNat = sub'.toNat) : encodeG high' sub' low = encodeG high sub low := by
  rw [BitVec.eq_of_toNat_eq hh, BitVec.eq_of_toNat_eq hs]

/-- A 7-bit address joined from a word's two fields is split into them again (R142). -/
theorem encodeRf_append (sub : Nibble) (high : BitVec 3) (low : Nibble) :
    encodeRf sub (high ++ low) = encodeG high sub low := by
  unfold encodeRf
  rw [rf_high, rf_low]

/-- A word that is a row only with its other fields right. -/
theorem ok_of_ite {α ε : Type} {c : Prop} [Decidable c] {x i : α} {e : ε}
    (h : (if c then .ok x else .error e : Except ε α) = .ok i) : c ∧ x = i := by
  split at h
  · exact ⟨‹c›, Except.ok.inj h⟩
  · exact nomatch h

/-- The returns (sub-operation 1110B). -/
theorem encode_of_return {sub : Nibble} {high : BitVec 3} {low : Nibble} {i : Instr} (hs : sub.toNat = 0xE)
    (h : decodeGroup sub high low = .ok i) : encode i = encodeG high sub low ∧ ∀ p, i.wf p = true := by
  simp only [decodeGroup, hs] at h
  split at h
  next hl =>
    subst hl
    split at h
    case h_4 => exact nomatch h
    all_goals
      cases h
      exact ⟨encodeG_congr 0 ‹_› hs, fun _ => rfl⟩
  next => exact nomatch h

/-- EI, DI, STOP, HALT and NOP (sub-operation 1111B). -/
theorem encode_of_control {sub : Nibble} {high : BitVec 3} {low : Nibble} {i : Instr} (hs : sub.toNat = 0xF)
    (h : decodeGroup sub high low = .ok i) : encode i = encodeG high sub low ∧ ∀ p, i.wf p = true := by
  simp only [decodeGroup, hs] at h
  split at h
  case h_6 => exact nomatch h
  case h_3 hh | h_4 hh => -- STOP, HALT
    cases h
    exact ⟨encodeG_congr low hh hs, fun _ => rfl⟩
  all_goals
    obtain ⟨rfl, rfl⟩ := ok_of_ite h
    exact ⟨encodeG_congr 0 ‹_› hs, fun _ => rfl⟩

/-- Group `G` (R144): every row of it stands for the fields it was read from. -/
theorem encode_of_decodeGroup {sub : Nibble} {high : BitVec 3} {low : Nibble} {i : Instr}
    (h : decodeGroup sub high low = .ok i) : encode i = encodeG high sub low ∧ ∀ p, i.wf p = true := by
  have h0 := h
  unfold decodeGroup at h
  split at h
  case h_15 => exact nomatch h -- no row
  case h_13 hs => exact encode_of_return hs h0
  case h_14 hs => exact encode_of_control hs h0
  case h_2 hs | h_3 hs | h_9 hs | h_10 hs => -- POKE, PEEK, PUT, GET
    cases h
    exact ⟨(encodeRf_append _ high low).trans (encodeG_congr low rfl hs), fun _ => rfl⟩
  case h_6 hs => -- RORC
    obtain ⟨rfl, rfl⟩ := ok_of_ite h
    exact ⟨encodeG_congr low rfl hs, fun _ => rfl⟩
  all_goals -- the rows without an operand
    obtain ⟨⟨rfl, rfl⟩, rfl⟩ := ok_of_ite h
    exact ⟨encodeG_congr 0 rfl ‹_›, fun _ => rfl⟩

/-! ### The words that do not decode -/

/-- Such a word is refused where one of those fields is wrong. -/
theorem ite_error_iff {α ε : Type} {c : Prop} [Decidable c] {x : α} {e : ε} :
    (∃ d, (if c then .ok x else .error e : Except ε α) = .error d) ↔ ¬ c := by
  split <;> simp [*]

/-- The returns: three values of `bits[10:8]`, the low nibble 0. -/
theorem return_error_iff {sub : Nibble} (high : BitVec 3) (low : Nibble) (hs : sub.toNat = 0xE) :
    (∃ e, decodeGroup sub high low = .error e) ↔ high ∉ ([0, 1, 4] : List (BitVec 3)) ∨ low ≠ 0 := by
  simp only [decodeGroup, hs]
  split
  next hl =>
    split
    case h_4 =>
      simp only [imp_false] at *
      simp [BitVec.toNat_eq (x := high), *]
    all_goals simp [BitVec.toNat_eq (x := high), *]
  next hl => exact ⟨fun _ => .inr hl, fun _ => ⟨_, rfl⟩⟩

/-- EI, DI and NOP need the low nibble 0; STOP and HALT take it as their operand. -/
theorem control_error_iff {sub : Nibble} (high : BitVec 3) (low : Nibble) (hs : sub.toNat = 0xF) :
    (∃ e, decodeGroup sub high low = .error e) ↔
      high ∈ ([5, 6, 7] : List (BitVec 3)) ∨ (high ∈ ([0, 1, 4] : List (BitVec 3)) ∧ low ≠ 0) := by
  simp only [decodeGroup, hs]
  split
  case h_6 =>
    simp only [imp_false] at *
    have h567 : high.toNat = 5 ∨ high.toNat = 6 ∨ high.toNat = 7 := by omega
    simp [BitVec.toNat_eq (x := high), h567]
  all_goals simp [BitVec.toNat_eq (x := high), ite_error_iff, *]

/-- R162 (b): the combinations of group `G` that are no row. -/
theorem decodeGroup_error_iff (sub : Nibble) (high : BitVec 3) (low : Nibble) :
    (∃ e, decodeGroup sub high low = .error e) ↔
      sub = 0b0000 ∨ sub = 0b0110 ∨
      (sub ∈ ([0b0001, 0b0100, 0b0101, 0b1000, 0b1001, 0b1100, 0b1101] : List Nibble) ∧ (high ≠ 0 ∨ low ≠ 0)) ∨
      (sub = 0b0111 ∧ high ≠ 0) ∨
      (sub = 0b1110 ∧ (high ∉ ([0, 1, 4] : List (BitVec 3)) ∨ low ≠ 0)) ∨
      (sub = 0b1111 ∧
        (high ∈ ([5, 6, 7] : List (BitVec 3)) ∨ (high ∈ ([0, 1, 4] : List (BitVec 3)) ∧ low ≠ 0))) := by
  by_cases hE : sub.toNat = 0xE
  · rw [return_error_iff high low hE]
    simp [BitVec.toNat_eq (x := sub), hE]
  by_cases hF : sub.toNat = 0xF
  · rw [control_error_iff high low hF]
    simp [BitVec.toNat_eq (x := sub), hF]
  unfold decodeGroup
  split
  case h_13 | h_14 => contradiction
  case h_15 =>
    simp only [imp_false] at *
    have h06 : sub.toNat = 0 ∨ sub.toNat = 6 := by omega
    simp [BitVec.toNat_eq (x := sub), h06, ← or_assoc]
  all_goals simp [BitVec.toNat_eq (x := sub), ite_error_iff, imp_iff_not_or, *]

/-- R162: a blank operation code, the page-1 BR without page 1, or a word of group `G` that is no row. -/
theorem decode_error_iff (p : Part) (w : Word) : (∃ e, decode p w = .error e) ↔
    wordOp w = 0b01110 ∨ wordOp w = 0b01111 ∨ wordOp w = 0b10111 ∨ (wordOp w = 0b01101 ∧ p.pcw ≠ 12) ∨
    (wordOp w = 0b00111 ∧ ∃ e, decodeGroup (wordSub w) (wordHigh w) (wordLow w) = .error e) := by
  unfold decode
  generalize wordOp w = op
  split
  case h_30 =>
    simp only [imp_false] at *
    have hb : op.toNat = 0x0E ∨ op.toNat = 0x0F ∨ op.toNat = 0x17 := by omega
    simp [BitVec.toNat_eq, hb, ← or_assoc]
  all_goals simp [BitVec.toNat_eq (x := op), ite_error_iff, *]

/-- Page 1 is missing where the program counter is narrower than 12 bits (R4). -/
theorem Part.pcw_lt_twelve_iff (p : Part) : p.pcw < 12 ↔ p.pcw ≠ 12 := by cases p <;> decide

end Sys2Proof

namespace Sys2Proof.Machine

/-- Settles O1, format by format (R141): the fields of an encoded word are the ones it was put together from. -/
theorem decodeAfterEncode : Obligations.DecodeAfterEncode := by
  intro p i hi
  cases i with
  | movt | pushAr | popAr | incAr | incIx | brAr | callAr | ret | retsk | reti | ei | di | nop
  | rorc _ | stop _ | halt _ => exact decode_encodeG p _ _ _
  | peek a | poke a | get a | put a => exact decode_encodeRf p a fun _ _ => rfl
  | brPage1 a =>
    have h12 : p.pcw = 12 := eq_of_beq hi
    simp [encode, decode, h12]
  | _ => simp [encode, decode] -- formats RM, MI and A: the operation code selects the row

/-- Settles O2: the operation code and the fields that `decode` reads are the whole word. -/
theorem encodeAfterDecode : Obligations.EncodeAfterDecode := by
  intro p w i h
  unfold decode at h
  split at h
  case h_30 => exact nomatch h -- a blank operation code
  case h_8 hop => -- group G
    obtain ⟨he, hwf⟩ := encode_of_decodeGroup h
    exact ⟨he.trans (word_splitG w hop), hwf p⟩
  case h_14 hop => -- BR in page 1
    obtain ⟨h12, rfl⟩ := ok_of_ite h
    exact ⟨encodeA_of_op hop, beq_of_eq h12⟩
  case h_13 hop | h_26 hop => -- BR in page 0, CALL
    cases h
    exact ⟨encodeA_of_op hop, rfl⟩
  all_goals -- formats RM and MI
    cases h
    exact ⟨encodeM_of_op ‹_›, rfl⟩

/-- Settles O4: `decode_error_iff` and `decodeGroup_error_iff`, whose fields are those of the word. -/
theorem unassignedWords : Obligations.UnassignedWords := by
  intro p w
  rw [decode_error_iff, decodeGroup_error_iff, ← Part.pcw_lt_twelve_iff]
  rfl

/-- Settles O3, each word by evaluating `decode` on it. -/
theorem sampleWordsDecode : Obligations.SampleWordsDecode :=
  ⟨rfl, rfl, rfl, rfl, rfl, rfl, rfl, rfl, rfl, rfl, rfl, rfl, rfl, rfl, rfl⟩

/-- Settles O6: the step is `runStep`, which refuses a word that does not decode. -/
theorem unassignedWordStops : Obligations.UnassignedWordStops := by
  intro s e ⟨hm, hs, hv, hp, hr⟩ hd
  exact (step_run s hv hp hr hm).trans (congrArg settled (runStep_error s e hs hd))

end Sys2Proof.Machine
end

section
/-! Addition and subtraction (O16, O17, O18) and the two increments (O20): the binary results as integers, what the decimal
correction makes of them, where the result is stored, and where an increment wraps. -/

namespace Sys2Proof.Machine

/-! ### Where the result is stored -/

/-- With CMP = 0 the end of `ARITH` is the flags and then one data-memory write of the result (R180, R45). -/
theorem arithFinish_stored (s : State) (a : DAddr) (x : AluOut) (h : s.psw.cmp = false) :
    stored { s with psw := { s.psw with cy := x.cy, z := decide (x.res = 0) } } (arithFinish s a x) a x.res := by
  rw [arithFinish_store s a x h]
  exact memWrite_stored _ a x.res

/-- Settles O18: each of the eight forms ends in `arithFinish`, which stores by `arithFinish_stored` where CMP is 0. -/
theorem arithmeticStores : Obligations.ArithmeticStores := by
  intro s r n4 m hcmp done
  have stores : ∀ (i : Instr) (a : DAddr) (x : AluOut), exec i s = .next (arithFinish s a x) → done i a x :=
    fun _ a x e => ⟨_, e, arithFinish_stored s a x hcmp⟩
  exact ⟨stores _ _ _ rfl, stores _ _ _ rfl, stores _ _ _ rfl, stores _ _ _ rfl,
    stores _ _ _ rfl, stores _ _ _ rfl, stores _ _ _ rfl, stores _ _ _ rfl⟩

/-! ### The increments -/

/-- An increment of AR wraps at the size of program memory: 2^PCW divides the 2^12 at which the twelve bits wrap. -/
theorem setAr_succ_toNat (s : State) :
    (setAr s (s.ar + 1)).ar.toNat = (s.ar.toNat + 1) % 2 ^ s.cfg.part.pcw := by
  have hdvd : 2 ^ s.cfg.part.pcw ∣ 2 ^ 12 := pow_dvd_pow 2 (by cases s.cfg.part <;> decide)
  rw [setAr_ar, addrMask_toNat, BitVec.toNat_add]
  exact Nat.mod_mod_of_dvd _ hdvd

/-- Settles O20: AR by `setAr_succ_toNat`; IX wraps as the 7-bit word it is. -/
theorem incrementsWrap : Obligations.IncrementsWrap :=
  fun s => ⟨⟨_, rfl, rfl, setAr_succ_toNat s⟩, ⟨_, rfl, rfl, BitVec.toNat_add s.ix 1⟩⟩

/-! ### Binary results -/

/-- The binary sum is the carry, worth 16, and the nibble (R180). -/
theorem addBinary_value (a b : Nibble) (c : Bool) :
    16 * (addBinary a b c).cy.toNat + (addBinary a b c).res.toNat = a.toNat + b.toNat + c.toNat := by
  have ha := a.isLt
  have hb := b.isLt
  have hc := c.toNat_le
  by_cases h : 16 ≤ a.toNat + b.toNat + c.toNat
  · simp only [addBinary, h, decide_true, Bool.toNat_true, BitVec.toNat_ofNat]
    omega
  · simp only [addBinary, h, decide_false, Bool.toNat_false, BitVec.toNat_ofNat]
    omega

/-- The binary difference is the nibble less the borrow, worth 16 (R180). -/
theorem subBinary_value (a b : Nibble) (c : Bool) :
    ((subBinary a b c).res.toNat : Int) - 16 * (subBinary a b c).cy.toNat = (a.toNat : Int) - b.toNat - c.toNat := by
  have ha := a.isLt
  have hb := b.isLt
  have hc := c.toNat_le
  by_cases h : (a.toNat : Int) - b.toNat - c.toNat < 0
  · simp only [subBinary, h, decide_true, Bool.toNat_true, BitVec.toNat_ofInt]
    omega
  · simp only [subBinary, h, decide_false, Bool.toNat_false, BitVec.toNat_ofInt]
    omega

/-- Settles O16: with BCD = 0 the results are the binary ones. -/
theorem binaryArithmetic : Obligations.BinaryArithmetic :=
  fun a b c => ⟨(Nat.add_comm _ _).trans (addBinary_value a b c), subBinary_value a b c⟩

/-! ### Decimal results -/

/-- The shaded part of the addition table holds no decimal digit. -/
theorem bcdAddInvalid_ge (s : Nat) : 10 ≤ (bcdAddInvalid s).toNat := by
  unfold bcdAddInvalid
  split <;> decide

/-- The shaded part of the subtraction table holds no decimal digit. -/
theorem bcdSubInvalid_ge (borrow : Bool) (nb : Nat) : 10 ≤ (bcdSubInvalid borrow nb).toNat := by
  unfold bcdSubInvalid
  split <;> decide

/-- `BCDADD` of a binary sum of at most 19 is a decimal digit and a decimal carry. -/
theorem bcdAdd_decimal (x : AluOut) (h : 16 * x.cy.toNat + x.res.toNat ≤ 19) :
    (bcdAdd x).res.toNat + 10 * (bcdAdd x).cy.toNat = 16 * x.cy.toNat + x.res.toNat ∧ (bcdAdd x).res.toNat ≤ 9 := by
  unfold bcdAdd
  by_cases h9 : 16 * x.cy.toNat + x.res.toNat ≤ 9
  · rw [if_pos h9, BitVec.toNat_ofNat, Bool.toNat_false]
    omega
  · rw [if_neg h9, if_pos h, BitVec.toNat_ofNat, Bool.toNat_true]
    omega

/-- `BCDADD` of a greater sum is an entry of the shaded part, with CY set. -/
theorem bcdAdd_invalid (x : AluOut) (h : 20 ≤ 16 * x.cy.toNat + x.res.toNat) :
    (bcdAdd x).cy = true ∧ 10 ≤ (bcdAdd x).res.toNat := by
  unfold bcdAdd
  rw [if_neg (by omega), if_neg (by omega)]
  exact ⟨rfl, bcdAddInvalid_ge _⟩

/-- `BCDSUB` of a binary difference from -10 to 9 is a decimal digit and a decimal borrow. -/
theorem bcdSub_decimal (x : AluOut) (h : -10 ≤ (x.res.toNat : Int) - 16 * x.cy.toNat)
    (h' : (x.res.toNat : Int) - 16 * x.cy.toNat ≤ 9) :
    ((bcdSub x).res.toNat : Int) - 10 * (bcdSub x).cy.toNat = (x.res.toNat : Int) - 16 * x.cy.toNat ∧
      (bcdSub x).res.toNat ≤ 9 := by
  unfold bcdSub
  by_cases h0 : 0 ≤ (x.res.toNat : Int) - 16 * x.cy.toNat
  · rw [if_pos ⟨h0, h'⟩, BitVec.toNat_ofInt, Bool.toNat_false]
    omega
  · rw [if_neg (by omega), if_pos (by omega), BitVec.toNat_ofInt, Bool.toNat_true]
    omega

/-- `BCDSUB` of any other difference is an entry of the shaded part, with CY set. -/
theorem bcdSub_invalid (x : AluOut)
    (h : (x.res.toNat : Int) - 16 * x.cy.toNat < -10 ∨ 9 < (x.res.toNat : Int) - 16 * x.cy.toNat) :
    (bcdSub x).cy = true ∧ 10 ≤ (bcdSub x).res.toNat := by
  unfold bcdSub
  rw [if_neg (by omega), if_neg (by omega)]
  exact ⟨rfl, bcdSubInvalid_ge _ _⟩

/-- Settles O17: the tables by evaluation; their meaning by the range in which the binary result lies. -/
theorem decimalArithmetic : Obligations.DecimalArithmetic := by
  refine ⟨by decide, by decide, by decide, fun a b c => ?_⟩
  have hadd := addBinary_value a b c
  have hsub := subBinary_value a b c
  refine ⟨fun h => ?_, fun h => ?_, fun h h' => ?_, fun h => ?_⟩
  · rw [← hadd]
    exact bcdAdd_decimal _ (by omega)
  · exact bcdAdd_invalid _ (by omega)
  · rw [← hsub]
    exact bcdSub_decimal _ (by omega) (by omega)
  · exact bcdSub_invalid _ (by omega)

end Sys2Proof.Machine
end

section
/-! The logical operations (O21). -/

namespace Sys2Proof.Machine

/-- An instruction that ends in one data-memory write stores that nibble and changes nothing else (R105). -/
theorem exec_stored {i : Instr} {s : State} {a : DAddr} {v : Nibble} (h : exec i s = .next (memWrite s a v)) :
    ∃ t, exec i s = .next t ∧ stored s t a v :=
  ⟨_, h, memWrite_stored s a v⟩

/-- Settles O21: no form looks at CMP or BCD (R210); each is one write of its result, which `exec_stored` describes. -/
theorem logicStores : Obligations.LogicStores :=
  fun _ _ _ _ => ⟨exec_stored rfl, exec_stored rfl, exec_stored rfl, exec_stored rfl, exec_stored rfl, exec_stored rfl⟩

end Sys2Proof.Machine
end

section
/-! The bit tests (O22) and the comparisons (O23): one lemma says what an instruction that ends in `skipIf` does, two say what
the masked operand of a bit test tells about its bits. -/

namespace Sys2Proof.Machine

/-- An instruction that ends in `skipIf` changes no more than the state `u` it tests in, and skips where its condition
holds (R220). -/
theorem exec_skips {i : Instr} {s u : State} {b : Bool} {c : Prop} (h : exec i s = .next (skipIf u b))
    (hu : u.skip = s.skip) (hb : b = true ↔ c) :
    ∃ t, exec i s = .next t ∧ { t with skip := s.skip } = u ∧ (t.skip = true ↔ s.skip = true ∨ c) := by
  rw [← hu, ← hb]
  exact ⟨_, h, skipIf_rest u b, skipIf_iff u b⟩

/-- SKT's test (R221): a mask passes through the operand whole where the operand has every bit of it. -/
theorem and_eq_mask_iff (x n : Nibble) :
    x &&& n = n ↔ ∀ k, k < 4 → n.getLsbD k = true → x.getLsbD k = true := by
  simp only [BitVec.eq_of_getLsbD_eq_iff, BitVec.getLsbD_and, Bool.and_eq_right_iff_imp]

/-- SKF's test (R222): nothing of the mask passes through where the operand has no bit of it. -/
theorem and_mask_eq_zero_iff (x n : Nibble) :
    x &&& n = 0 ↔ ∀ k, k < 4 → n.getLsbD k = true → x.getLsbD k = false := by
  rw [BitVec.and_comm]
  simp only [BitVec.eq_of_getLsbD_eq_iff, BitVec.getLsbD_and, BitVec.ofNat_eq_ofNat, BitVec.getLsbD_zero,
    Bool.and_eq_false_imp]

/-- Settles O22: both end in `skipIf` with CMP cleared (R221, R222), on the mask lemma of each. -/
theorem bitTestsSkip : Obligations.BitTestsSkip := fun s m n =>
  ⟨exec_skips (u := clearCmp s) rfl rfl (decide_eq_true_iff.trans (and_eq_mask_iff (readM s m) n)),
   exec_skips (u := clearCmp s) rfl rfl (decide_eq_true_iff.trans (and_mask_eq_zero_iff (readM s m) n))⟩

/-- Settles O23: each ends in `skipIf` in the state it began in; equality of nibbles is that of their values. -/
theorem comparisonsSkip : Obligations.ComparisonsSkip := fun _ _ _ =>
  ⟨exec_skips rfl rfl (decide_eq_true_iff.trans BitVec.toNat_inj.symm),
   exec_skips rfl rfl (decide_eq_true_iff.trans BitVec.toNat_inj.symm.not),
   exec_skips rfl rfl decide_eq_true_iff,
   exec_skips rfl rfl decide_eq_true_iff⟩

end Sys2Proof.Machine
end

section
/-! Rotation (O24): where each of five bits goes when they turn right by one, and that CY above a register, so turned, is the
new CY above RORC's own result. -/

namespace Sys2Proof.Machine

/-- Turning five bits right by one brings bit 0 round to the top. -/
theorem rotateFive_top (x : BitVec 5) : (x.rotateRight 1).getLsbD 4 = x.getLsbD 0 :=
  BitVec.getLsbD_rotateRight

/-- Every other bit moves one place down. -/
theorem rotateFive_below (x : BitVec 5) {k : Nat} (hk : k < 4) : (x.rotateRight 1).getLsbD k = x.getLsbD (k + 1) := by
  rw [BitVec.getLsbD_rotateRight, decide_eq_true (show k < 5 - 1 % 5 from hk), cond_true, Nat.add_comm]

/-- The new CY of RORC is the bit that leaves the register on the right (R240). -/
theorem rotateFive_carry (cy : Bool) (a : Nibble) :
    ((BitVec.ofBool cy ++ a).rotateRight 1).getLsbD 4 = a.getLsbD 0 := by
  rw [rotateFive_top, BitVec.getLsbD_append]
  rfl

/-- The nibble below the new CY is RORC's result: CY comes in at the left of the register's upper three bits (R240). -/
theorem rotateFive_nibble (cy : Bool) (a : Nibble) :
    ((BitVec.ofBool cy ++ a).rotateRight 1).extractLsb' 0 4 = rotateRight cy a := by
  obtain ⟨h3, h2, h1, h0⟩ := nibbleOf_bits cy (a.getLsbD 3) (a.getLsbD 2) (a.getLsbD 1)
  refine BitVec.eq_of_getLsbD_eq fun k hk => ?_
  rw [BitVec.getLsbD_extractLsb', decide_eq_true hk, Bool.true_and, Nat.zero_add, rotateFive_below _ hk,
    BitVec.getLsbD_append]
  interval_cases k
  · exact h0.symm
  · exact h1.symm
  · exact h2.symm
  · exact (BitVec.getLsbD_ofBool cy 0).trans h3.symm

/-- Settles O24: the five bits turned are the CY and the nibble that RORC writes, CY first and the register last (R242), in
one data-memory write that `memWrite_stored` describes. -/
theorem rotateThroughCarry : Obligations.RotateThroughCarry := fun s r => by
  dsimp only
  rw [rotateFive_carry, rotateFive_nibble]
  exact ⟨_, rfl, memWrite_stored _ (gr s r) _⟩

end Sys2Proof.Machine
end

section
/-! The transfers (O25, O26, O27): LD, ST and the MOVs are one data-memory write each; MOVT, PUSH and POP go over the address
stack, where an address in range passes the masks of AR, of PC and of a push unchanged. -/

namespace Sys2Proof.Machine

/-! ### One nibble -/

/-- Settles O25: each form is one write of its source at its operand's address, which `exec_stored` describes. -/
theorem transfersStore : Obligations.TransfersStore :=
  fun _ _ _ _ => ⟨exec_stored rfl, exec_stored rfl, exec_stored rfl, exec_stored rfl, exec_stored rfl⟩

/-! ### Addresses in range -/

theorem setAr_of_inRange (s : State) (v : PAddr) (h : inRange s.cfg v) : setAr s v = { s with ar := v } := by
  unfold setAr
  rw [h]

theorem setPc_of_inRange (s : State) (v : PAddr) (h : inRange s.cfg v) : setPc s v = { s with pc := v } := by
  unfold setPc
  rw [h]

theorem pushed_of_inRange (s : State) (v : PAddr) (h : inRange s.cfg v) :
    pushed s v = { s with sp := s.sp - 1, asr := s.asr.put (s.sp - 1) v } := by
  unfold pushed
  rw [h]

/-- A pop into PC of an address on the stack (R245). -/
theorem popThen_setPc (t : State) (v : PAddr) (h : t.sp.toNat ≤ 4) (htop : asrGet t t.sp = v) (hv : inRange t.cfg v) :
    popThen t (fun a u => setPc u a) = { t with pc := v, sp := t.sp + 1 } := by
  rw [popThen_any t _ h, htop]
  exact setPc_of_inRange _ v hv

/-! ### MOVT -/

/-- With room on the address stack MOVT is a write of DBF that leaves PC behind in the stack (R251): the pop returns the
PC just pushed, and SP to where it was. -/
theorem exec_movt_room (s : State) (hpc : inRange s.cfg s.pc) (h1 : 1 ≤ s.sp.toNat) (h2 : s.sp.toNat ≤ 5) :
    exec .movt s = .next (dbfWrite { s with asr := s.asr.put (s.sp - 1) s.pc } (romRead s s.ar)) := by
  have htop : asrGet (dbfWrite (setPc (pushed s s.pc) s.ar) (romRead s s.ar)) (s.sp - 1) = s.pc :=
    (asrGet_congr _ (pushed s s.pc) _ rfl rfl rfl).trans (pushed_top s s.pc h1 h2 hpc)
  refine congrArg Host.Outcome.next ((pushThen_room s s.pc _ h1 h2).trans ?_)
  refine (popThen_setPc _ s.pc (sp_sub s.sp h1 h2).2 htop hpc).trans ?_
  rw [pushed_of_inRange s s.pc hpc, dbfWrite_sp, setPc_sp, BitVec.sub_add_cancel]
  rfl

/-- Settles O26: with room the write of DBF of `exec_movt_room`; on a full stack the push resets the chip. -/
theorem tableReference : Obligations.TableReference :=
  fun s =>
    ⟨fun hpc h1 h2 => ⟨_, exec_movt_room s hpc h1 h2, dbfRead_dbfWrite _ _, onlyDbf_dbfWrite _ _⟩,
     fun h => congrArg Host.Outcome.next (pushThen_full s s.pc _ h)⟩

/-! ### PUSH AR and POP AR -/

/-- Settles O27: PUSH is the push of AR, or the reset of a full stack; POP is the pop into AR, where the address keeps all its
bits, or the reset of an empty stack. -/
theorem addressStackTransfers : Obligations.AddressStackTransfers := by
  refine fun s => ⟨fun h1 h2 har => ⟨pushed s s.ar, ?_, (sp_sub s.sp h1 h2).1, pushed_top s s.ar h1 h2 har,
    fun k _ hk => pushed_other s s.ar k hk, rfl⟩, fun h => ?_, fun h hv => ?_, fun h => ?_⟩
  all_goals refine congrArg Host.Outcome.next ?_
  · exact pushThen_room s s.ar _ h1 h2
  · exact pushThen_full s s.ar _ h
  · rw [popThen_any s _ h]
    exact setAr_of_inRange _ _ hv
  · exact popThen_empty s _ h

end Sys2Proof.Machine
end

section
/-! Branches and subroutines (O34, O35, O36) and the return from an interrupt (O40). Everything goes over `setPc`, the push and
the pop of the address stack: a branch is a `setPc`, a call a push and a `setPc`, a return a pop into PC. -/

namespace Sys2Proof.Machine

/-! ### Branches -/

/-- The destination of a branch or call on page 0 (R147). -/
theorem page0_toNat (addr : BitVec 11) : ((0 : BitVec 1) ++ addr).toNat = addr.toNat := by
  rw [BitVec.toNat_append]
  exact Nat.zero_or _

/-- The destination of a branch on page 1 (R147): its bit 11 stands above all bits of the operand. -/
theorem page1_toNat (addr : BitVec 11) : ((1 : BitVec 1) ++ addr).toNat = 2048 + addr.toNat := by
  rw [BitVec.toNat_append]
  exact (Nat.two_pow_add_eq_or_of_lt addr.isLt 1).symm

theorem setPc_toNat (s : State) (target : PAddr) : (setPc s target).pc.toNat = target.toNat % 2 ^ s.cfg.part.pcw :=
  addrMask_toNat _ _

/-- An instruction that does a `setPc` alone is a jump. -/
theorem exec_jumps {i : Instr} {s : State} {target : PAddr} {n : Nat} (h : exec i s = .next (setPc s target))
    (hn : target.toNat = n) :
    ∃ t, exec i s = .next t ∧ { t with pc := s.pc } = s ∧ t.pc.toNat = n % 2 ^ s.cfg.part.pcw :=
  ⟨setPc s target, h, rfl, hn ▸ setPc_toNat s target⟩

/-- Settles O34: each branch is one `setPc`, to its operand on page 0 or 1 or to AR. -/
theorem branchesSetPc : Obligations.BranchesSetPc :=
  fun _ addr => ⟨exec_jumps rfl (page0_toNat addr), exec_jumps rfl (page1_toNat addr), exec_jumps rfl rfl⟩

/-! ### Calls -/

/-- An instruction that pushes PC and then does a `setPc` is a call, where the address stack has room. -/
theorem exec_calls {i : Instr} {s : State} {k : State → State} {target : PAddr} {n : Nat}
    (h : exec i s = .next (pushThen s s.pc k)) (hk : k (pushed s s.pc) = setPc (pushed s s.pc) target)
    (hn : target.toNat = n) (h1 : 1 ≤ s.sp.toNat) (h2 : s.sp.toNat ≤ 5) (hpc : inRange s.cfg s.pc) :
    ∃ t, exec i s = .next t ∧ t.pc.toNat = n % 2 ^ s.cfg.part.pcw ∧ t.sp.toNat + 1 = s.sp.toNat ∧
      asrGet t t.sp = s.pc ∧ (∀ j : BitVec 3, j.toNat ≤ 4 → j ≠ t.sp → asrGet t j = asrGet s j) ∧
      { t with pc := s.pc, sp := s.sp, asr := s.asr } = s := by
  have hstack : ∀ j, asrGet (setPc (pushed s s.pc) target) j = asrGet (pushed s s.pc) j :=
    fun j => asrGet_congr _ _ j rfl rfl rfl
  refine ⟨setPc (pushed s s.pc) target, ?next, hn ▸ setPc_toNat _ target, (sp_sub s.sp h1 h2).1, ?top, ?others, rfl⟩
  case next => rw [h, pushThen_room s s.pc k h1 h2, hk]
  case top => exact (hstack _).trans (pushed_top s s.pc h1 h2 hpc)
  case others => exact fun j _ hj => (hstack j).trans (pushed_other s s.pc j hj)

/-- Settles O35: with room both calls are `exec_calls`, CALL addr on page 0; on a full stack the push resets the chip. -/
theorem callsPushAndJump : Obligations.CallsPushAndJump :=
  fun s addr =>
    ⟨fun h1 h2 hpc => ⟨exec_calls rfl rfl (page0_toNat addr) h1 h2 hpc, exec_calls rfl rfl rfl h1 h2 hpc⟩,
     fun h => ⟨congrArg Host.Outcome.next (pushThen_full s s.pc _ h),
       congrArg Host.Outcome.next (pushThen_full s s.pc _ h)⟩⟩

/-! ### Returns -/

theorem savedPsword_cons (s : State) (p : Psword) (rest : List Psword) (h : s.intsk = p :: rest) : savedPsword s = p := by
  unfold savedPsword
  rw [h]

/-- RETSK with an address on the stack (R286). -/
theorem exec_retsk_any (s : State) (h : s.sp.toNat ≤ 4) (hv : inRange s.cfg (asrGet s s.sp)) :
    exec .retsk s = .next { s with pc := asrGet s s.sp, sp := s.sp + 1, skip := true } := by
  have hpc := setPc_of_inRange { s with sp := s.sp + 1 } (asrGet s s.sp) hv
  refine congrArg Host.Outcome.next ((popThen_any s _ h).trans ?_)
  rw [hpc]

/-- RETI with an address on the stack (R287), whatever the interrupt stack holds. -/
theorem exec_reti_any (s : State) (h : s.sp.toNat ≤ 4) (hv : inRange s.cfg (asrGet s s.sp)) :
    exec .reti s = .next
      { s with pc := asrGet s s.sp, sp := s.sp + 1, psw := savedPsword s, intsk := s.intsk.tail } :=
  congrArg Host.Outcome.next ((popThen_any s _ h).trans (setPc_of_inRange _ _ hv))

/-- Settles O36: RET is the pop into PC, RETSK and RETI add their part to it; RETI on an empty interrupt stack leaves that
stack empty and claims no PSWORD (D3). On an empty address stack the pop resets the chip. -/
theorem returnsPop : Obligations.ReturnsPop := by
  refine fun s p rest =>
    ⟨fun h hv => ⟨?ret, exec_retsk_any s h hv, fun hp => ?saved, fun hp => ?noneSaved⟩, fun h => ?empty⟩
  case ret => exact congrArg Host.Outcome.next (popThen_setPc s _ h rfl hv)
  case saved => rw [exec_reti_any s h hv, savedPsword_cons s p rest hp, hp, List.tail_cons]
  case noneSaved =>
    refine ⟨_, exec_reti_any s h hv, rfl, rfl, ?_⟩
    rw [hp, List.tail_nil, ← hp]
  case empty =>
    have hreset := fun k => congrArg (Host.Outcome.next (φ := Fault) (ρ := Refusal)) (popThen_empty s k h)
    exact ⟨hreset _, hreset _, hreset _⟩

/-! ### The return from an interrupt -/

/-- Settles O40: the acceptance leaves the PC on top of the address stack and the PSWORD on top of the interrupt stack, which
two saved before it do not fill, so RETI takes both back; INTE and the request stay as the acceptance left them. -/
theorem interruptThenReturn : Obligations.InterruptThenReturn := by
  intro x s h1 h2 hpc hlen
  rw [takeInterrupt_room x s h1 h2, pushed_of_inRange s s.pc hpc]
  set t : State := { s with
    sp := s.sp - 1, asr := s.asr.put (s.sp - 1) s.pc, inte := false, irq := s.irq.put x false,
    intsk := (s.psw :: s.intsk).take 3, psw := Psword.zero, pc := x.vector }
  have hroom : t.sp.toNat ≤ 4 := (sp_sub s.sp h1 h2).2
  have htop : asrGet t t.sp = s.pc := asrGet_of_put t s.asr (s.sp - 1) s.pc hroom rfl
  have hpsw : savedPsword t = s.psw := savedPsword_cons t s.psw (s.intsk.take 2) rfl
  have hintsk : t.intsk.tail = s.intsk := List.take_of_length_le hlen
  have hsp : t.sp + 1 = s.sp := BitVec.sub_add_cancel s.sp 1
  rw [exec_reti_any t hroom (htop.symm ▸ hpc), htop, hpsw, hintsk, hsp]

end Sys2Proof.Machine
end

section
/-! The enable of interrupts (O37), the standby instructions (O41, O42, O43) and NOP (O44): what the end of a step does in each
of its cases, and the release conditions of HALT and STOP as statements about the flags. -/

namespace Sys2Proof.Machine

/-! ### The end of a step -/

/-- The end of a step that executed an EI: no test for an acceptance (R300; log 35). -/
theorem endOfStep_ei (pending : Bool) (f : IrqSet) (s : State) (hr : s.rstSig = false) :
    endOfStep true pending f s = if pending then { s with irqDly := f, inte := true } else { s with irqDly := f } :=
  if_neg (by rw [hr]; exact Bool.false_ne_true)

/-- The end of any other step: a pending EI takes effect, then comes the test for an acceptance, where nothing defers it
(R300, R444; log 21). -/
theorem endOfStep_other (pending : Bool) (f : IrqSet) (s : State) (hr : s.rstSig = false) :
    endOfStep false pending f s =
      if !s.skip && isRunning s.mode && !overridden s then
        acceptCheck { s with irqDly := f, inte := s.inte || s.eiPending, eiPending := false }
      else { s with irqDly := f, inte := s.inte || s.eiPending, eiPending := false } := by
  have hei : settleEi { s with irqDly := f } =
      { s with irqDly := f, inte := s.inte || s.eiPending, eiPending := false } := settleEi_eq _
  unfold endOfStep
  simp only
  rw [if_neg (by rw [hr]; exact Bool.false_ne_true), if_neg Bool.false_ne_true, hei]
  rfl

/-- Settles O37: EI and DI are one update each; the end of the step that executed an EI is `endOfStep_ei`, that of any other is
`endOfStep_other`, whose condition a skip, a standby mode or an overriding sample makes false. -/
theorem enableIsLate : Obligations.EnableIsLate := by
  refine fun s f =>
    ⟨rfl, rfl, endOfStep_ei false f s, endOfStep_ei true f s, fun hr hdefer => ?deferred, fun hr hskip hrun hover => ?tested⟩
  case deferred =>
    have hcond : ¬ (!s.skip && isRunning s.mode && !overridden s) = true := by
      rcases hdefer with h | h | h <;> simp [h]
    rw [endOfStep_other _ f s hr, if_neg hcond]
  case tested =>
    have hcond : (!s.skip && isRunning s.mode && !overridden s) = true := by
      simp [hskip, hover, (isRunning_iff s.mode).mpr hrun]
    rw [endOfStep_other _ f s hr, if_pos hcond]

/-! ### Release conditions -/

theorem irqSet_both_any_iff (f g : IrqSet) : (f.both g).any = true ↔ ∃ x, f.get x = true ∧ g.get x = true := by
  simp only [irqSet_any_iff, irqSet_both_get, Bool.and_eq_true]

/-- Some flag holds with one source left out. -/
theorem irqSet_put_false_any_iff (f : IrqSet) (x : IrqSource) :
    (f.put x false).any = true ↔ ∃ y, y ≠ x ∧ f.get y = true := by
  rw [irqSet_any_iff]
  refine exists_congr fun y => ?_
  by_cases hy : y = x
  · simp [hy, irqSet_put_get]
  · simp [hy, irqSet_put_other f x y false hy]

/-- The release condition of HALT (R461), bit by bit of the operand. -/
theorem haltRelease_iff (s : State) (h : Nibble) (f : IrqSet) :
    haltRelease s h f = true ↔
      (h.getLsbD 3 = true ∧ ∃ x, f.get x = true ∧ s.ip.get x = true) ∨
      (h.getLsbD 1 = true ∧ f.tm1 = true) ∨ (h.getLsbD 0 = true ∧ pinP0F0 s = false) := by
  unfold haltRelease
  simp only [Bool.or_eq_true, Bool.and_eq_true, Bool.not_eq_true', irqSet_both_any_iff, or_assoc]

/-- The release condition of STOP (R463): timer 1 has no part in it. -/
theorem stopRelease_iff (s : State) (c : Nibble) (f : IrqSet) :
    stopRelease s c f = true ↔
      (c.getLsbD 3 = true ∧ ∃ x, x ≠ .tm1 ∧ f.get x = true ∧ s.ip.get x = true) ∨
      (c.getLsbD 0 = true ∧ pinP0F0 s = false) := by
  have hsources : ({ f.both s.ip with tm1 := false } : IrqSet).any = true ↔
      ∃ x, x ≠ .tm1 ∧ f.get x = true ∧ s.ip.get x = true := by
    have hleft := irqSet_put_false_any_iff (f.both s.ip) .tm1
    simp only [irqSet_both_get, Bool.and_eq_true] at hleft
    exact hleft
  unfold stopRelease
  simp only [Bool.or_eq_true, Bool.and_eq_true, Bool.not_eq_true', hsources]

/-! ### HALT -/

/-- HALT with an operand that the manual allows (R303, D14). -/
theorem execHalt_allowed (h : Nibble) (s : State) (hb : h.getLsbD 2 = false) :
    execHalt h s = .next (if haltRelease s h s.irqDly then s else { s with mode := .halt h }) := by
  unfold execHalt
  rw [if_neg (by rw [hb]; exact Bool.false_ne_true), apply_ite Host.Outcome.next]

/-- Settles O41: bit 2 of the operand decides between refusing and the rest; the condition is `haltRelease_iff`. -/
theorem haltEntersOrIsIgnored : Obligations.HaltEntersOrIsIgnored :=
  fun s h => ⟨execHalt_allowed h s, fun hb => if_pos hb, haltRelease_iff s h s.irqDly⟩

/-! ### STOP -/

/-- STOP with 1000B or 1001B (R302, R463, R464, D26). -/
theorem execStop_standby (c : Nibble) (s : State) (hc : c = 8 ∨ c = 9) :
    execStop c s =
      if stopRelease s c s.irqDly then .next s
      else if s.tm1.ck = 3 then .refused .stopClockedByTimer0
      else .next (enterStop s c) := by
  rcases hc with rfl | rfl <;> rfl

/-- Settles O42: the branches of `execStop_standby`, the entry being `enterStop`; both operands have bit 3 set in
`stopRelease_iff`, and bit 0 only 1001B. -/
theorem stopEntersOrIsIgnored : Obligations.StopEntersOrIsIgnored := by
  intro s c hc
  have hexec : exec (.stop c) s = _ := execStop_standby c s hc
  have hstays : stopRelease s c s.irqDly = false → ¬ stopRelease s c s.irqDly = true :=
    fun h => by rw [h]; exact Bool.false_ne_true
  refine ⟨fun h => ?ignored, fun h hck => ⟨enterStop s c, ?enters, rfl, rfl, rfl, rfl, rfl⟩, fun h hck => ?refused, ?condition⟩
  case ignored => rw [hexec, if_pos h]
  case enters => rw [hexec, if_neg (hstays h), if_neg hck]
  case refused => rw [hexec, if_neg (hstays h), if_pos hck]
  case condition =>
    rw [stopRelease_iff]
    rcases hc with rfl | rfl <;> simp

/-- Settles O43: the effect is `initStop`. It keeps SIOSFR by `sioKept_clean`; every other item is a field that it leaves or
sets, the parts that a reset shares with it by column `RST_A`. -/
theorem stopZeroInitialises : Obligations.StopZeroInitialises := by
  refine fun s => ⟨initStop s, rfl, rfl, rfl, rfl, sioKept_clean s, ?items⟩
  case items => and_intros <;> rfl

/-! ### NOP -/

/-- Settles O44: the arm of NOP is the state itself. -/
theorem nopChangesNothing : Obligations.NopChangesNothing := fun _ => rfl

end Sys2Proof.Machine
end

section
/-! Port reads and pin levels (O15): a read of a port register bit by bit, latch or pin, and the level of every pin as what the
chip drives, else the outside, else the pull-up, else free. -/

namespace Sys2Proof.Machine

/-! ### Latch or pin -/

/-- A port whose four bits share one direction flag reads its latch or its pins as a whole (R327). -/
theorem latchOrPin_spread (b : Bool) (latch levels : Nibble) :
    latchOrPin (spread b) latch levels = if b then latch else levels := by
  refine BitVec.eq_of_getLsbD_eq fun n hn => ?_
  rw [latchOrPin_getLsbD _ _ _ _ hn, spread_getLsbD _ _ hn]
  cases b <;> rfl

/-- The bits of P0D that have their output function, by TM1OSEL, SIOEN and P0DBIOn (R329). -/
theorem portDOutputs_bits (s : State) :
    (portDOutputs s).getLsbD 3 = (s.ports.tm1osel || s.ports.dbio.getLsbD 3) ∧
    (portDOutputs s).getLsbD 2 = (!s.ports.sioen && s.ports.dbio.getLsbD 2) ∧
    (portDOutputs s).getLsbD 1 = (if s.ports.sioen then !s.sio.hiz else s.ports.dbio.getLsbD 1) ∧
    (portDOutputs s).getLsbD 0 = (if s.ports.sioen then decide (s.sio.ck ≠ 0) else s.ports.dbio.getLsbD 0) :=
  nibbleOf_bits _ _ _ _

/-- A bit of P0C reads its latch as an output and as an analog input (R327). -/
theorem readP0C_getLsbD (s : State) (n : Nat) (hn : n < 4) :
    (readP0C s).getLsbD n =
      if s.ports.cbio.getLsbD n || s.ports.cidi.getLsbD n then s.ports.latC.getLsbD n else (pinsC s).getLsbD n := by
  unfold readP0C
  rw [latchOrPin_getLsbD _ _ _ _ hn, BitVec.getLsbD_or]

/-- A bit of P0D reads its latch where it has its output function (R327). -/
theorem readP0D_getLsbD (s : State) (n : Nat) (hn : n < 4) :
    (readP0D s).getLsbD n =
      if (portDOutputs s).getLsbD n then s.ports.latD.getLsbD n else (pinsD s).getLsbD n :=
  latchOrPin_getLsbD _ _ _ n hn

/-- P0F has two bits, of which P0F1 reads 0 while it is VREF (R326, R327). -/
theorem readP0F_bits (s : State) :
    (readP0F s).getLsbD 3 = false ∧ (readP0F s).getLsbD 2 = false ∧
    (readP0F s).getLsbD 1 = (decide (s.ports.cidi = 0) && pinP0F1 s) ∧ (readP0F s).getLsbD 0 = pinP0F0 s :=
  nibbleOf_bits _ _ _ _

/-! ### The level of a pin -/

/-- The level of pin `n` of a port (R331, D20): what the chip drives unless a reset is held, else what the outside drives, else
1 by the pull-up, else free. -/
def pinLevel (s : State) (drives level : Bool) (outside : PortDrive) (n : Nat) (pull free : Bool) : Bool :=
  if !pinsReleased s && drives then level
  else if outside.driven.getLsbD n then outside.level.getLsbD n
  else pull || free

/-- Only a held reset releases the pins (R501). -/
theorem pinsReleased_iff (s : State) : pinsReleased s = true ↔ ∃ b o, s.mode = .held b o := by
  unfold pinsReleased
  cases s.mode <;> simp

/-- `pinLevel` is the model's level of a port of enabled outputs. -/
theorem portLevels_pinLevel (s : State) (drives level : Nibble) (ext : PortDrive) (pull free : Nibble) (n : Nat)
    (hn : n < 4) :
    (portLevels (outputEnable s drives) level ext pull free).getLsbD n =
      pinLevel s (drives.getLsbD n) (level.getLsbD n) ext n (pull.getLsbD n) (free.getLsbD n) := by
  rw [portLevels_getLsbD _ _ _ _ _ _ hn, outputEnable_getLsbD]
  rfl

/-- A push-pull port with one direction flag and one pull-up flag: P0A and P0B (R322, R329). -/
theorem pushPull_getLsbD (s : State) (out pull : Bool) (latch free : Nibble) (ext : PortDrive) (n : Nat) (hn : n < 4) :
    (portLevels (outputEnable s (spread out)) latch ext (spread pull) free).getLsbD n =
      pinLevel s out (latch.getLsbD n) ext n pull (free.getLsbD n) := by
  rw [portLevels_pinLevel _ _ _ _ _ _ _ hn, spread_getLsbD _ _ hn, spread_getLsbD _ _ hn]

/-- An open-drain port drives the low level alone: P0D and P0E (R329). -/
theorem openDrain_getLsbD (s : State) (low : Nibble) (ext : PortDrive) (pull free : Nibble) (n : Nat) (hn : n < 4) :
    (portLevels (outputEnable s low) 0 ext pull free).getLsbD n =
      pinLevel s (low.getLsbD n) false ext n (pull.getLsbD n) (free.getLsbD n) := by
  rw [portLevels_pinLevel _ _ _ _ _ _ _ hn]
  simp only [BitVec.ofNat_eq_ofNat, BitVec.getLsbD_zero]

/-- P0C: push-pull by bit, no pull-up (R323, R329). -/
theorem pinsC_getLsbD (s : State) (n : Nat) (hn : n < 4) :
    (pinsC s).getLsbD n =
      pinLevel s (s.ports.cbio.getLsbD n) (s.ports.latC.getLsbD n) s.pins.p0c n false
        ((s.drawAt 4 .pin 6).getLsbD n) := by
  unfold pinsC
  rw [portLevels_pinLevel _ _ _ _ _ _ _ hn]
  simp only [BitVec.ofNat_eq_ofNat, BitVec.getLsbD_zero]

/-- P0E: open drain, so a latch of 0 alone drives (R329). -/
theorem pinsE_getLsbD (s : State) (n : Nat) (hn : n < 4) :
    (pinsE s).getLsbD n =
      pinLevel s (s.ports.gio.getLsbD 2 && !s.ports.latE.getLsbD n) false s.pins.p0e n (s.ports.gpu.getLsbD 2)
        ((s.drawAt 4 .pin 8).getLsbD n) := by
  unfold pinsE
  rw [openDrain_getLsbD _ _ _ _ _ _ hn, BitVec.getLsbD_and, BitVec.getLsbD_not, spread_getLsbD _ _ hn,
    spread_getLsbD _ _ hn, decide_eq_true hn, Bool.true_and]

/-- What an output of P0D carries, by its function (R329, R411). -/
theorem portDValue_bits (s : State) :
    (portDValue s).getLsbD 3 = (if s.ports.tm1osel then s.tm1Out else s.ports.latD.getLsbD 3) ∧
    (portDValue s).getLsbD 2 = s.ports.latD.getLsbD 2 ∧
    (portDValue s).getLsbD 1 = (if s.ports.sioen then s.sio.soLatch else s.ports.latD.getLsbD 1) ∧
    (portDValue s).getLsbD 0 = (if s.ports.sioen then !(s.sio.ts && s.sio.sckLow) else s.ports.latD.getLsbD 0) :=
  nibbleOf_bits _ _ _ _

/-- The bits of P0D that the chip pulls low: an output function that carries a 0 (R329). -/
def portDLow (s : State) : Nibble := portDOutputs s &&& ~~~portDValue s

/-- P0D: open drain with a pull-up by bit (R329). -/
theorem pinsD_getLsbD (s : State) (n : Nat) (hn : n < 4) :
    (pinsD s).getLsbD n =
      pinLevel s ((portDLow s).getLsbD n) false s.pins.p0d n (s.ports.dbpu.getLsbD n)
        ((s.drawAt 4 .pin 7).getLsbD n) :=
  openDrain_getLsbD s (portDLow s) s.pins.p0d s.ports.dbpu (s.drawAt 4 .pin 7) n hn

/-- What pulls each pin of P0D low: TM1OUT_FF, the latch, SO_LATCH, the internal serial clock (R329, R411). -/
theorem portDLow_bits (s : State) :
    (portDLow s).getLsbD 3 =
      (if s.ports.tm1osel then !s.tm1Out else s.ports.dbio.getLsbD 3 && !s.ports.latD.getLsbD 3) ∧
    (portDLow s).getLsbD 2 = (!s.ports.sioen && s.ports.dbio.getLsbD 2 && !s.ports.latD.getLsbD 2) ∧
    (portDLow s).getLsbD 1 =
      (if s.ports.sioen then !s.sio.hiz && !s.sio.soLatch else s.ports.dbio.getLsbD 1 && !s.ports.latD.getLsbD 1) ∧
    (portDLow s).getLsbD 0 =
      (if s.ports.sioen then decide (s.sio.ck ≠ 0) && (s.sio.ts && s.sio.sckLow)
        else s.ports.dbio.getLsbD 0 && !s.ports.latD.getLsbD 0) := by
  have hbit : ∀ n, n < 4 → (portDLow s).getLsbD n = ((portDOutputs s).getLsbD n && !(portDValue s).getLsbD n) := by
    intro n hn
    unfold portDLow
    rw [BitVec.getLsbD_and, BitVec.getLsbD_not, decide_eq_true hn, Bool.true_and]
  obtain ⟨o3, o2, o1, o0⟩ := portDOutputs_bits s
  obtain ⟨v3, v2, v1, v0⟩ := portDValue_bits s
  refine ⟨?timer, ?si, ?so, ?sck⟩
  case timer =>
    rw [hbit 3 (by decide), o3, v3]
    cases s.ports.tm1osel <;> rfl
  case si => rw [hbit 2 (by decide), o2, v2]
  case so =>
    rw [hbit 1 (by decide), o1, v1]
    cases s.ports.sioen <;> rfl
  case sck =>
    rw [hbit 0 (by decide), o0, v0]
    cases s.ports.sioen
    · rfl
    · exact congrArg (_ && ·) (Bool.not_not _)

/-- The free bits of the five ports of pins, in the order P0A, P0B, P0C, P0E, P0D (log 3). -/
def portFree (s : State) (port : Nat) : Nibble :=
  match port with
  | 0 => s.drawAt 4 .pin 4
  | 1 => s.drawAt 4 .pin 5
  | 2 => s.drawAt 4 .pin 6
  | 3 => s.drawAt 4 .pin 8
  | _ => s.drawAt 4 .pin 7

/-- An input pin of its own: the outside's level, else 1 by the mask option's pull-up, which the µPD17P149 lacks (R326, D20). -/
theorem resolvePin_option (c : Config) (outside : Drive) (pull free : Bool) :
    (outside = .low → resolvePin outside (c.option pull) free = false) ∧
    (outside = .high → resolvePin outside (c.option pull) free = true) ∧
    (outside = .openPin → pull = true → c.part ≠ .upd17P149 → resolvePin outside (c.option pull) free = true) := by
  refine ⟨fun h => h ▸ rfl, fun h => h ▸ rfl, fun h hpull hpart => ?_⟩
  have hopt : c.option pull = true := by rw [Config.option, hpull, decide_eq_true hpart]; rfl
  rw [h, hopt]
  rfl

/-- Settles O15: what each port reads, by the lemma of its register; the level of its pins, by that of its kind of output, the
free bits being `portFree`; and the four inputs by `resolvePin_option`. -/
theorem portReads : Obligations.PortReads := by
  intro s
  have readA : memRead s 0x70 = if s.ports.gio.getLsbD 0 then s.ports.latA else pinsA s := latchOrPin_spread _ _ _
  have readB : memRead s 0x71 = if s.ports.gio.getLsbD 1 then s.ports.latB else pinsB s := latchOrPin_spread _ _ _
  have readE : memRead s 0x6E = if s.ports.gio.getLsbD 2 then s.ports.latE else pinsE s := latchOrPin_spread _ _ _
  have readD : ∀ n, n < 4 → (memRead s 0x73).getLsbD n = _ := readP0D_getLsbD s
  obtain ⟨out3, out2, out1, out0⟩ := portDOutputs_bits s
  obtain ⟨low3, low2, low1, low0⟩ := portDLow_bits s
  obtain ⟨f3, f2, f1, f0⟩ : (memRead s 0x6F).getLsbD 3 = _ ∧ (memRead s 0x6F).getLsbD 2 = _ ∧
    (memRead s 0x6F).getLsbD 1 = _ ∧ (memRead s 0x6F).getLsbD 0 = _ := readP0F_bits s
  refine ⟨fun h => by rw [readA, if_pos h], fun h => by rw [readA, h]; rfl,
    fun h => by rw [readB, if_pos h], fun h => by rw [readB, h]; rfl,
    fun h => by rw [readE, if_pos h], fun h => by rw [readE, h]; rfl,
    readP0C_getLsbD s,
    by rw [readD 3 (by decide), out3], by rw [readD 2 (by decide), out2],
    by rw [readD 1 (by decide), out1], by rw [readD 0 (by decide), out0],
    f3, f2, fun h => by rw [f1, decide_eq_false h]; rfl, fun h => by rw [f1, decide_eq_true h]; rfl, f0,
    ⟨pinsReleased_iff s, portFree s, fun n hn => ?groups, ?d3, ?d2, ?d1, ?d0⟩,
    resolvePin_option _ _ _ _, resolvePin_option _ _ _ _, resolvePin_option _ _ _ _, resolvePin_option _ _ _ _⟩
  case groups =>
    exact ⟨pushPull_getLsbD _ _ _ _ _ _ _ hn, pushPull_getLsbD _ _ _ _ _ _ _ hn, pinsC_getLsbD s n hn, pinsE_getLsbD s n hn⟩
  case d3 => rw [pinsD_getLsbD s 3 (by decide), low3]; rfl
  case d2 => rw [pinsD_getLsbD s 2 (by decide), low2]; rfl
  case d1 => rw [pinsD_getLsbD s 1 (by decide), low1]; rfl
  case d0 => rw [pinsD_getLsbD s 0 (by decide), low0]; rfl

end Sys2Proof.Machine
end

section
/-! Which instructions complete (O8): the accesses that are refused, by address and value; every other arm ends in a state. -/

namespace Sys2Proof.Machine

/-! ### Accesses that complete -/

/-- An access completes as an instruction where it is not refused. -/
theorem outcomeOf_completes_iff (x : Except Refusal State) : (∃ t, outcomeOf x = .next t) ↔ ∃ t, x = .ok t :=
  exists_congr (outcomeOf_next x)

/-- A write refused under a condition completes where the condition fails. -/
theorem ite_completes_iff {c : Prop} [Decidable c] {e : Refusal} {t : State} :
    (∃ u, (if c then .error e else .ok t : Except Refusal State) = .ok u) ↔ ¬ c := by
  by_cases h : c <;> simp [h]

/-- A serial mode is refused where it starts a transfer with the pins off (R413, D25). -/
theorem writeSioMode_completes_iff (s : State) (v : Nibble) :
    (∃ t, writeSioMode s v = .ok t) ↔ ¬ (v.getLsbD 3 = true ∧ s.ports.sioen = false) := by
  cases hv : v.getLsbD 3
  · simp [writeSioMode_stop s v hv]
  · cases he : s.ports.sioen
    · simp [writeSioMode_refused s v hv he]
    · simp [writeSioMode_start s v hv he]

/-- Every control register takes every write but two (D9, D25). -/
theorem ctrlWrite_completes_iff (s : State) (c : CtrlReg) (v : Nibble) :
    (∃ t, ctrlWrite s c v = .ok t) ↔
      ¬ ((c = .intEdge ∧ v.extractLsb' 0 2 = 3) ∨ (c = .sioMode ∧ v.getLsbD 3 = true ∧ s.ports.sioen = false)) := by
  cases c
  case intEdge =>
    rw [ctrlWrite_intEdge, ite_completes_iff]
    simp
  case sioMode =>
    refine (writeSioMode_completes_iff s v).trans ?_
    simp
  all_goals exact iff_of_true ⟨_, rfl⟩ (by simp)

theorem ctrlReg_eq_intEdge_iff (a : DAddr) : ctrlReg a = .intEdge ↔ a = 0x1F :=
  ⟨fun h => ctrlReg_inj a 0x1F h (by decide), fun h => h ▸ rfl⟩

theorem ctrlReg_eq_sioMode_iff (a : DAddr) : ctrlReg a = .sioMode ↔ a = 0x02 :=
  ⟨fun h => ctrlReg_inj a 0x02 h (by decide), fun h => h ▸ rfl⟩

/-- A POKE completes but for the reserved edge selection (D9) and a transfer with the serial pins off (D25). -/
theorem exec_poke_completes_iff (s : State) (a : DAddr) : (∃ t, exec (.poke a) s = .next t) ↔ ¬ stopsOn (.poke a) s := by
  by_cases ha : a.toNat < 0x40
  · rw [exec_poke_ctrl s a ha, outcomeOf_completes_iff, ctrlWrite_completes_iff, ctrlReg_eq_intEdge_iff,
      ctrlReg_eq_sioMode_iff]
    exact Iff.rfl
  · refine iff_of_true ⟨_, exec_poke_memory s a (Nat.le_of_not_lt ha)⟩ ?_
    rintro (⟨rfl, -⟩ | ⟨rfl, -⟩) <;> exact ha (by decide)

/-- The assigned peripheral addresses (R114). -/
theorem periReg_unassigned_iff : ∀ p : DAddr,
    periReg p = .unassigned ↔ p ∉ ([0x01, 0x02, 0x03, 0x04, 0x40, 0x45] : List DAddr) := by decide

/-- The two modulo registers (R114). -/
theorem periReg_modulo_iff : ∀ p : DAddr,
    periReg p = .tm0m ∨ periReg p = .tm1m ↔ p ∈ ([0x02, 0x03] : List DAddr) := by decide

theorem periRead_completes_iff (s : State) (p : PeriReg) : (∃ t, periRead s p = .ok t) ↔ p ≠ .unassigned := by
  cases p
  case unassigned => simp [periRead]
  all_goals exact iff_of_true ⟨_, rfl⟩ (by simp)

/-- A PUT is refused at an unassigned address (D8), and of 00H to a modulo register (D13). -/
theorem periWrite_completes_iff (s : State) (p : PeriReg) (w : Word) :
    (∃ t, periWrite s p w = .ok t) ↔
      ¬ (p = .unassigned ∨ ((p = .tm0m ∨ p = .tm1m) ∧ w.extractLsb' 0 8 = 0)) := by
  cases p
  case tm0m =>
    rw [periWrite_tm0m, ite_completes_iff]
    simp
  case tm1m =>
    rw [periWrite_tm1m, ite_completes_iff]
    simp
  case unassigned => simp [periWrite]
  all_goals exact iff_of_true ⟨_, rfl⟩ (by simp)

/-! ### Standby instructions that complete -/

theorem stopOperandOk_iff (c : Nibble) : stopOperandOk c = true ↔ c ∈ ([0x0, 0x8, 0x9] : List Nibble) := by
  revert c; decide

/-- STOP is refused with a prohibited operand (D14), and where it would enter with timer 1 on timer 0 (D26). -/
theorem execStop_completes_iff (c : Nibble) (s : State) :
    (∃ t, execStop c s = .next t) ↔
      ¬ (¬ stopOperandOk c = true ∨ (c ≠ 0 ∧ stopRelease s c s.irqDly = false ∧ s.tm1.ck = 3)) := by
  unfold execStop
  by_cases hok : stopOperandOk c = true
  case neg =>
    rw [if_neg hok]
    exact iff_of_false (by simp) (not_not_intro (.inl hok))
  rw [if_pos hok, or_iff_right (not_not_intro hok)]
  by_cases hc : c = 0
  case pos =>
    rw [if_pos hc]
    exact iff_of_true ⟨_, rfl⟩ fun h => h.1 hc
  rw [if_neg hc]
  by_cases hrel : stopRelease s c s.irqDly = true
  case pos =>
    rw [if_pos hrel]
    exact iff_of_true ⟨_, rfl⟩ fun h => absurd (hrel.symm.trans h.2.1) nofun
  rw [if_neg hrel]
  by_cases hck : s.tm1.ck = 3
  · rw [if_pos hck]
    exact iff_of_false (by simp) (not_not_intro ⟨hc, Bool.eq_false_of_not_eq_true hrel, hck⟩)
  · rw [if_neg hck]
    exact iff_of_true ⟨_, rfl⟩ fun h => hck h.2.2

/-- HALT is refused where bit 2 of its operand is set (D14). -/
theorem execHalt_completes_iff (h : Nibble) (s : State) : (∃ t, execHalt h s = .next t) ↔ ¬ h.getLsbD 2 = true := by
  by_cases hb : h.getLsbD 2 = true
  · unfold execHalt
    simp only [hb, if_true, reduceCtorEq, exists_false, not_true]
  · exact iff_of_true ⟨_, execHalt_allowed h s (Bool.eq_false_of_not_eq_true hb)⟩ hb

/-- Settles O8: POKE, GET, PUT, STOP and HALT by what they access; every other arm of `exec` ends in a state. -/
theorem everyInstructionCompletes : Obligations.EveryInstructionCompletes := by
  intro i s
  cases i
  case poke rf => exact exec_poke_completes_iff s rf
  case get p =>
    refine (outcomeOf_completes_iff _).trans ((periRead_completes_iff s _).trans (not_congr ?_))
    exact periReg_unassigned_iff p
  case put p =>
    refine (outcomeOf_completes_iff _).trans ((periWrite_completes_iff s _ _).trans (not_congr ?_))
    rw [periReg_unassigned_iff, periReg_modulo_iff]
    exact Iff.rfl
  case stop c =>
    refine (execStop_completes_iff c s).trans (not_congr ?_)
    rw [stopOperandOk_iff]
    exact Iff.rfl
  case halt h => exact execHalt_completes_iff h s
  all_goals exact iff_of_true ⟨_, rfl⟩ id

end Sys2Proof.Machine
end

section
/-! Interrupt acceptance (O38, O39): the order of the sources is that of a list searched from its head, and an acceptance
either has room on the address stack or resets the chip. -/

namespace Sys2Proof.Machine

/-! ### Priority -/

/-- The sources from the highest priority down (R441, R446). -/
def priorityOrder : List IrqSource := [.int, .tm0, .tm1, .btm, .sio]

/-- The member of the highest priority is the first that is found in that order. -/
theorem irqSet_first_eq_find (f : IrqSet) : f.first = priorityOrder.find? f.get := by
  unfold IrqSet.first priorityOrder
  simp only [List.find?_cons, List.find?_nil, IrqSet.get]
  cases f.int <;> cases f.tm0 <;> cases f.tm1 <;> cases f.btm <;> cases f.sio <;> rfl

theorem irqSet_first_none (f : IrqSet) (h : ∀ x, f.get x = false) : f.first = none := by
  rw [irqSet_first_eq_find, List.find?_eq_none]
  exact fun x _ => by simp [h x]

/-- A member is the first where none before it in the order is one. -/
theorem irqSet_first_some (f : IrqSet) (k : Nat) (hk : k < priorityOrder.length) (h : f.get (priorityOrder.getD k .sio) = true)
    (hlow : ∀ j, j < k → f.get (priorityOrder.getD j .sio) = false) : f.first = some (priorityOrder.getD k .sio) := by
  have at_index : ∀ j (hj : j < priorityOrder.length), priorityOrder.getD j .sio = priorityOrder[j] :=
    fun j _ => (List.getElem_eq_getD _).symm
  rw [irqSet_first_eq_find, List.find?_eq_some_iff_getElem]
  refine ⟨h, k, hk, (at_index k hk).symm, fun j hj => ?_⟩
  rw [← at_index j (hj.trans hk), hlow j hj]
  rfl

theorem acceptCheck_disabled (s : State) (h : s.inte = false) : acceptCheck s = s :=
  if_neg (by rw [h]; exact Bool.false_ne_true)

theorem acceptCheck_none (s : State) (h : (s.irq.both s.ip).first = none) : acceptCheck s = s := by
  unfold acceptCheck
  rw [h]
  exact ite_self s

theorem acceptCheck_some (s : State) (x : IrqSource) (hi : s.inte = true) (h : (s.irq.both s.ip).first = some x) :
    acceptCheck s = acceptCycle x s := by
  unfold acceptCheck
  rw [if_pos hi, h]

/-- Settles O38: the sources that are pending and enabled are `IrqSet.both`, and the first of them is that in
`priorityOrder`. -/
theorem priorityOfRequests : Obligations.PriorityOfRequests := by
  refine fun s => ⟨acceptCheck_disabled s, fun h => acceptCheck_none s (irqSet_first_none _ fun x => ?none),
    fun hi k hk => ?first⟩
  case none =>
    rw [irqSet_both_get]
    cases hx : s.irq.get x
    · rfl
    · rw [h x hx]
      rfl
  case first =>
    intro order x hx hp hlow
    refine acceptCheck_some s x hi (irqSet_first_some _ k hk ?_ fun j hj => ?_)
    · exact (irqSet_both_get _ _ _).trans (by rw [Bool.and_eq_true]; exact ⟨hx, hp⟩)
    · exact (irqSet_both_get _ _ _).trans (hlow j hj)

/-! ### Taking an interrupt -/

/-- The cycle of an acceptance that neither the push nor the watchdog turns into a reset (R445). -/
theorem acceptCycle_room (x : IrqSource) (s : State) (h1 : 1 ≤ s.sp.toNat) (h2 : s.sp.toNat ≤ 5)
    (hr : s.rstSig = false) (hw : s.btm.wdtEn = false) :
    acceptCycle x s = { clockedCycle (takeInterrupt x s) with irqDly := s.irq } := by
  have ht : (takeInterrupt x s).rstSig = false ∧ wdtResetsNext (takeInterrupt x s) = false := by
    rw [takeInterrupt_room x s h1 h2]
    exact ⟨hr, wdtResetsNext_off _ hw⟩
  have hu : (clockedCycle (takeInterrupt x s)).rstSig = false := by
    obtain ⟨y, hy, e⟩ := clockedCycle_to (takeInterrupt x s)
    rw [e, ht.2, if_neg Bool.false_ne_true]
    exact (hy.field State.rstSig fun _ _ => rfl).trans ht.1
  unfold acceptCycle
  simp only
  rw [if_neg (by rw [ht.1]; exact Bool.false_ne_true), if_neg (by rw [hu]; exact Bool.false_ne_true)]

/-- With the address stack full an acceptance resets the chip (R472; log 34). -/
theorem takeInterrupt_full (x : IrqSource) (s : State) (h : s.sp = 0) :
    takeInterrupt x s = applyReset .stack { s with irq := s.irq.put x (s.drawBit .irqAbandoned) } := by
  unfold takeInterrupt
  rw [pushAddr_full s s.pc h]

/-- The cycle of that reset is its sample alone (log 20). -/
theorem acceptCycle_full (x : IrqSource) (s : State) (h : s.sp = 0) :
    acceptCycle x s = nextSample (applyReset .stack { s with irq := s.irq.put x (s.drawBit .irqAbandoned) }) := by
  unfold acceptCycle
  simp only
  rw [takeInterrupt_full x s h]
  exact if_pos rfl

/-- Settles O39: with room the fields of `takeInterrupt_room`, and its cycle by `acceptCycle_room`; without, the reset of
`takeInterrupt_full`. -/
theorem takingAnInterrupt : Obligations.TakingAnInterrupt := by
  refine fun x s => ⟨fun h1 h2 hpc => ?room, fun h => ⟨_, takeInterrupt_full x s h, ?full⟩⟩
  case room =>
    intro t
    refine ⟨?vector, ?depth, ?top, fun k _ hk => ?other, ?psw, ?zero, ?inte, ?request, fun y hy => ?requests, ?frame,
      acceptCycle_room x s h1 h2⟩
    all_goals rw [show t = _ from takeInterrupt_room x s h1 h2] at *
    case vector => cases x <;> rfl
    case depth => exact (sp_sub s.sp h1 h2).1
    case top => exact pushed_top s s.pc h1 h2 hpc
    case other => exact pushed_other s s.pc k hk
    case request => exact irqSet_put_get _ _ _
    case requests => exact irqSet_put_other _ _ _ _ hy
    all_goals rfl
  case full =>
    rw [acceptCycle_full x s h, nextSample_frame]
    exact ⟨rfl, rfl, rfl, rfl, rfl, rfl, fun y hy => irqSet_put_other _ _ _ _ hy⟩

end Sys2Proof.Machine
end

section
/-! The reset signal (O49): the step that holds the machine, and the one that releases it. -/

namespace Sys2Proof.Machine

/-- RESET low, or the power-on clear where the option is on a part that has it, asserts the reset signal (R471, R502, R7). -/
theorem resetAsserted_of_pins (s : State)
    (h : s.pins.reset = .low ∨ (s.pins.vddLow = true ∧ s.cfg.optPoc = true ∧ s.cfg.part ≠ .upd17P149)) :
    resetAsserted s = true := by
  unfold resetAsserted
  rcases h with h | ⟨hv, ho, hp⟩
  · simp [pinReset, h, resolvePin]
  · simp [Config.option, hv, ho, hp]

/-- While the reset signal is asserted a step holds the machine (R474). -/
theorem step_held (s : State) (hv : s.pins.overVdd = false) (hp : s.pins.vppProgram = false)
    (hr : resetAsserted s = true) : step s = .next (clearRstSig (holdReset s)) := by
  unfold step stepCore
  rw [hv, hp, hr]
  rfl

/-- What a held machine remembers of its mode: the column, and whether STOP had stopped the oscillator (R470; log 21). -/
theorem heldMode_held (m : Mode) :
    ∃ b o, heldMode m = .held b o ∧ (m = .run → b = false ∧ o = false) ∧ (∀ h, m = .halt h → b = true ∧ o = false) ∧
      (∀ c, m = .stop c → b = true ∧ o = true) ∧
      (∀ g, m = .wait .resetA g ∨ m = .wait .resetB g → b = false ∧ (o = true ↔ g ≠ 0)) ∧
      (∀ g, m = .wait .stopRelease g → b = true ∧ (o = true ↔ g ≠ 0)) ∧
      (∀ b' o', m = .held b' o' → b = b' ∧ o = o') := by
  cases m with
  | wait w g => cases w <;> exact ⟨_, _, rfl, by simp⟩
  | _ => exact ⟨_, _, rfl, by simp⟩

/-- Settles O49: a step under the signal is `holdReset`, which moves the sample and sets `heldMode`; without the signal the
step of a held machine is `releaseReset`. -/
theorem resetSignalOverrides : Obligations.ResetSignalOverrides := by
  refine fun s hv hp => ⟨fun h => ?held, fun b o hm hr => ?released⟩
  case held =>
    obtain ⟨b, o, hheld, hmodes⟩ := heldMode_held s.mode
    have hstep := step_held s hv hp (resetAsserted_of_pins s h)
    unfold holdReset at hstep
    rw [nextSample_frame] at hstep
    exact ⟨_, b, o, hstep, hheld, rfl, rfl, rfl, hmodes⟩
  case released =>
    rw [step_mode s hv (by rw [hp]; rfl) hr]
    unfold modeStep
    rw [hm]
    rfl

end Sys2Proof.Machine
end

section
/-! The converter (O55, O56): a continuous conversion decides the bits of the greatest code below the input from the top, so
that after every cycle its decided bits are those of the result; a single comparison takes three cycles. -/

namespace Sys2Proof.Machine

/-! ### Successive approximation -/

/-- The greatest code below the input of the selected channel, or 00H (R392). -/
def conversionResult (s : State) : Byte := BitVec.ofNat 8 (min (analogInput s - 1) 255)

theorem conversionResult_toNat (s : State) : (conversionResult s).toNat = min (analogInput s - 1) 255 := by
  unfold conversionResult
  rw [BitVec.toNat_ofNat]
  omega

/-- The input is higher than a code that is not 00H exactly where the code is not above the result (R390). -/
theorem anaHigher_iff_le (s : State) (code : Byte) (h : code.toNat ≠ 0) :
    anaHigher s code = true ↔ code.toNat ≤ (conversionResult s).toNat := by
  have hlt := code.isLt
  rw [anaHigher_eq, conversionResult_toNat, decide_eq_true_eq]
  omega

theorem topMask_getLsbD (d : Nat) (hd : d < 9) (i : Nat) (hi : i < 8) : (topMask d).getLsbD i = decide (8 ≤ i + d) := by
  have h : ∀ (d : Fin 9) (i : Fin 8), (topMask d).getLsbD i = decide (8 ≤ i.val + d.val) := by decide
  exact h ⟨d, hd⟩ ⟨i, hi⟩

theorem trialBit_getLsbD (k : Nat) (hk : k < 8) (i : Nat) (hi : i < 8) : (trialBit k).getLsbD i = decide (i + k = 7) := by
  have h : ∀ (k i : Fin 8), (trialBit k).getLsbD i = decide (i.val + k.val = 7) := by decide
  exact h ⟨k, hk⟩ ⟨i, hi⟩

/-- The trial code of the `k`-th decision about `r`: the bits decided, and the one under decision. -/
def trialCode (r : Byte) (k : Nat) : Byte := (r &&& topMask k) ||| trialBit k

theorem trialCode_getLsbD (r : Byte) (k : Nat) (hk : k < 8) (i : Nat) (hi : i < 8) :
    (trialCode r k).getLsbD i = ((r.getLsbD i && decide (8 ≤ i + k)) || decide (i + k = 7)) := by
  unfold trialCode
  rw [BitVec.getLsbD_or, BitVec.getLsbD_and, topMask_getLsbD k (by omega) i hi, trialBit_getLsbD k hk i hi]

/-- A trial code has its bit under decision. -/
theorem trialCode_ne_zero (r : Byte) (k : Nat) (hk : k < 8) : (trialCode r k).toNat ≠ 0 := by
  intro h
  have hbit := trialCode_getLsbD r k hk (7 - k) (by omega)
  rw [← BitVec.testBit_toNat, h, Nat.zero_testBit, decide_eq_true (by omega : 7 - k + k = 7), Bool.or_true] at hbit
  cases hbit

/-- The trial code is not above `r` exactly where `r` has the bit under decision. -/
theorem trialCode_le_iff (r : Byte) (k : Nat) (hk : k < 8) :
    (trialCode r k).toNat ≤ r.toNat ↔ r.getLsbD (7 - k) = true := by
  cases hb : r.getLsbD (7 - k)
  case true =>
    have hsub : trialCode r k = trialCode r k &&& r := by
      refine BitVec.eq_of_getLsbD_eq fun i hi => ?_
      rw [BitVec.getLsbD_and, trialCode_getLsbD r k hk i hi]
      by_cases hik : i + k = 7
      · rw [show i = 7 - k by omega, hb, Bool.and_true]
      · rw [decide_eq_false hik]
        cases r.getLsbD i <;> simp
    refine iff_of_true ?_ rfl
    rw [hsub, BitVec.toNat_and]
    exact Nat.and_le_right
  case false =>
    refine iff_of_false (Nat.not_le_of_lt (Nat.lt_of_testBit (7 - k) ?_ ?_ fun i hi => ?_)) Bool.false_ne_true
    · exact hb
    · rw [BitVec.testBit_toNat, trialCode_getLsbD r k hk _ (by omega), decide_eq_true (by omega : 7 - k + k = 7),
        Bool.or_true]
    · rw [BitVec.testBit_toNat, BitVec.testBit_toNat]
      by_cases h8 : i < 8
      · rw [trialCode_getLsbD r k hk i h8, decide_eq_true (by omega), decide_eq_false (by omega), Bool.and_true,
          Bool.or_false]
      · rw [BitVec.getLsbD_of_ge _ _ (by omega), BitVec.getLsbD_of_ge _ _ (by omega)]

/-- Comparing with the trial code decides one more bit of the number approximated. -/
theorem decided_succ (r : Byte) (k : Nat) (hk : k < 8) :
    (if (trialCode r k).toNat ≤ r.toNat then trialCode r k else r &&& topMask k) = r &&& topMask (k + 1) := by
  refine BitVec.eq_of_getLsbD_eq fun i hi => ?_
  simp only [trialCode_le_iff r k hk]
  rw [BitVec.getLsbD_and, topMask_getLsbD (k + 1) (by omega) i hi]
  by_cases hik : i + k = 7
  · obtain rfl : i = 7 - k := by omega
    split
    · rename_i hb
      rw [trialCode_getLsbD r k hk _ hi, hb]
      simp only [Bool.true_and, ← Bool.decide_or, decide_eq_decide]
      omega
    · rename_i hb
      rw [BitVec.getLsbD_and, Bool.eq_false_of_not_eq_true hb, Bool.false_and, Bool.false_and]
  · have hsame : 8 ≤ i + (k + 1) ↔ 8 ≤ i + k := by omega
    split
    · rw [trialCode_getLsbD r k hk i hi, decide_eq_false hik, Bool.or_false, decide_eq_decide.mpr hsame]
    · rw [BitVec.getLsbD_and, topMask_getLsbD k (by omega) i hi, decide_eq_decide.mpr hsame]

/-- The bits kept are those known, whatever stands below. -/
theorem keepTop_decided (d : Nat) (known rest : Byte) : keepTop d known rest &&& topMask d = known &&& topMask d := by
  unfold keepTop
  ext i hi
  simp only [BitVec.getElem_and, BitVec.getElem_or, BitVec.getElem_not]
  cases (topMask d)[i] <;> simp

/-- One decision, where the bits decided so far are those of the result. -/
theorem decideBit_decided (t : State) (k : Nat) (hk : k < 8)
    (h : t.adc.adcr &&& topMask k = conversionResult t &&& topMask k) :
    decideBit t k = conversionResult t &&& topMask (k + 1) := by
  have hdecide : decideBit t k =
      if anaHigher t (trialCode (conversionResult t) k) then trialCode (conversionResult t) k
      else conversionResult t &&& topMask k := by
    unfold decideBit trialCode
    simp only [h]
  simp only [hdecide, anaHigher_iff_le t _ (trialCode_ne_zero _ k hk)]
  exact decided_succ (conversionResult t) k hk

/-! ### A continuous conversion -/

/-- A cycle of the converter keeps the input it compares with. -/
theorem analogInput_adcCycle (t : State) : analogInput (adcCycle t) = analogInput t := by
  have hch : (adcCycle t).adc.ch = t.adc.ch := by
    unfold adcCycle
    split <;> rfl
  rw [adcCycle_frame]
  unfold analogInput
  rw [hch]

/-- `t` is the state after `n` cycles of a continuous conversion of the input of `s`: a bit is decided in every third cycle
from the fourth on, and the decided bits are those of the result (R392). -/
structure Converting (s : State) (n : Nat) (t : State) : Prop where
  input : analogInput t = analogInput s
  seq : t.adc.seq = if n = 25 then .idle else .continuous n false
  fin : t.adc.fin = decide (n = 25)
  decided : t.adc.adcr &&& topMask ((n - 1) / 3) = conversionResult s &&& topMask ((n - 1) / 3)

theorem converting_start (s : State) (h : s.adc.soft = false) : Converting s 0 (adcStart s) := by
  have e : adcStart s = { s with adc := { s.adc with
      cmp := s.drawBit .adcCompare, fin := false, adcr := s.draw 8 .adcData, seq := .continuous 0 false } } :=
    if_neg (by rw [h]; exact Bool.false_ne_true)
  have undecided : ∀ x : Byte, x &&& topMask 0 = 0 := by decide
  rw [e]
  exact ⟨rfl, rfl, rfl, (undecided _).trans (undecided _).symm⟩

theorem converting_succ (s t : State) (n : Nat) (hn : n < 25) (h : Converting s n t) :
    Converting s (n + 1) (adcCycle t) := by
  have hseq : t.adc.seq = .continuous n false := h.seq.trans (if_neg (by omega))
  have hcycle : (adcCycle t).adc = continuousCycle t (n + 1) false := by
    unfold adcCycle
    rw [hseq]
  have hres : conversionResult t = conversionResult s := congrArg (fun a => BitVec.ofNat 8 (min (a - 1) 255)) h.input
  refine ⟨(analogInput_adcCycle t).trans h.input, ?seq, ?fin, ?decided⟩
  case seq => rw [hcycle]; rfl
  case fin => rw [hcycle]; rfl
  case decided =>
    have hadcr : (continuousCycle t (n + 1) false).adcr =
        if 4 ≤ n + 1 ∧ n % 3 = 0 then keepTop (n / 3) (decideBit t (n / 3 - 1)) (t.draw 8 .adcData)
        else keepTop (n / 3) t.adc.adcr (t.draw 8 .adcData) := rfl
    rw [hcycle, hadcr, Nat.add_sub_cancel]
    split
    · have hbit := decideBit_decided t (n / 3 - 1) (by omega) (by
        rw [hres, show n / 3 - 1 = (n - 1) / 3 by omega]
        exact h.decided)
      rw [keepTop_decided, hbit, hres, show n / 3 - 1 + 1 = n / 3 by omega, BitVec.and_assoc, BitVec.and_self]
    · rw [keepTop_decided, show n / 3 = (n - 1) / 3 by omega]
      exact h.decided

theorem converting_iterate (s : State) (h : s.adc.soft = false) (n : Nat) (hn : n ≤ 25) :
    Converting s n (adcCycle^[n] (adcStart s)) := by
  induction n with
  | zero => exact converting_start s h
  | succ n ih =>
    rw [Function.iterate_succ_apply']
    exact converting_succ s _ n hn (ih (by omega))

/-- Writing ADCSTRT starts the converter (R60). -/
theorem exec_poke_adcStart (s : State) (h : s.wr.getLsbD 0 = true) : exec (.poke 0x20) s = .next (adcStart s) :=
  exec_poke_ok s _ 0x20 (by decide) (congrArg Except.ok (if_pos h))

/-- Settles O55: the invariant `Converting` after 25 cycles, when all eight bits are decided. -/
theorem continuousConversion : Obligations.ContinuousConversion := by
  intro s h
  have hend := converting_iterate s h 25 (by decide)
  have all : ∀ x : Byte, x &&& topMask ((25 - 1) / 3) = x := by decide
  have hresult : (adcCycle^[25] (adcStart s)).adc.adcr = conversionResult s := by
    rw [← all (adcCycle^[25] (adcStart s)).adc.adcr, hend.decided, all]
  refine ⟨exec_poke_adcStart s, ?_, hend.fin, hend.seq, fun n hn => ?_⟩
  · rw [hresult, conversionResult_toNat]
  · rw [(converting_iterate s h n (by omega)).fin]
    exact decide_eq_false (by omega)

/-! ### A single comparison -/

/-- The first two cycles of a single comparison leave what is compared and shown (R393). -/
theorem adcCycle_comparing (t : State) (n : Nat) (hn : n < 2) (h : t.adc.seq = .single n false) :
    ∃ f, adcCycle t = { t with adc := { t.adc with fin := f, seq := .single (n + 1) false } } := by
  refine ⟨t.drawBit .adcEnd, ?_⟩
  have h3 : ¬ n + 1 = 3 := by omega
  unfold adcCycle singleCycle
  rw [h]
  simp only [if_neg h3]

theorem adcCycle_compares (t : State) (h : t.adc.seq = .single 2 false) :
    (adcCycle t).adc.cmp = decide (t.adc.adcr.toNat < analogInput t) ∧ (adcCycle t).adc.adcr = t.adc.adcr := by
  unfold adcCycle
  rw [h]
  exact ⟨anaHigher_eq t t.adc.adcr, rfl⟩

theorem adcCycle_iterate_comparing (t : State) (h : t.adc.seq = .single 0 false) (n : Nat) (hn : n < 3) :
    ∃ f, adcCycle^[n] t = { t with adc := { t.adc with fin := f, seq := .single n false } } := by
  induction n with
  | zero => exact ⟨t.adc.fin, by rw [← h]; rfl⟩
  | succ n ih =>
    obtain ⟨f, hf⟩ := ih (by omega)
    rw [Function.iterate_succ_apply', hf]
    exact adcCycle_comparing _ n (by omega) rfl

/-- A single comparison from its start: what it shows before its third cycle, and after it. -/
theorem singleComparison_shows (t : State) (h : t.adc.seq = .single 0 false) :
    (adcCycle^[3] t).adc.cmp = decide (t.adc.adcr.toNat < analogInput t) ∧
      (∀ n, n < 3 → (adcCycle^[n] t).adc.cmp = t.adc.cmp) ∧ ∀ n, n ≤ 3 → (adcCycle^[n] t).adc.adcr = t.adc.adcr := by
  have before : ∀ n, n < 3 → (adcCycle^[n] t).adc.cmp = t.adc.cmp ∧ (adcCycle^[n] t).adc.adcr = t.adc.adcr := by
    intro n hn
    obtain ⟨f, hf⟩ := adcCycle_iterate_comparing t h n hn
    rw [hf]
    exact ⟨rfl, rfl⟩
  have third : (adcCycle^[3] t).adc.cmp = decide (t.adc.adcr.toNat < analogInput t) ∧
      (adcCycle^[3] t).adc.adcr = t.adc.adcr := by
    obtain ⟨f, hf⟩ := adcCycle_iterate_comparing t h 2 (by decide)
    rw [Function.iterate_succ_apply', hf]
    exact adcCycle_compares _ rfl
  refine ⟨third.1, fun n hn => (before n hn).1, fun n hn => ?_⟩
  rcases Nat.lt_or_eq_of_le hn with hlt | rfl
  · exact (before n hlt).2
  · exact third.2

/-- Settles O56: both starts leave the sequencer at the start of a single comparison, the PUT with ADCCMP cleared. -/
theorem singleComparison : Obligations.SingleComparison := by
  intro s h v
  have hput := writeAdcr_single s v h
  have hstart : adcStart s =
      { s with adc := { s.adc with cmp := s.drawBit .adcCompare, fin := false, seq := .single 0 false } } := if_pos h
  obtain ⟨putResult, putBefore, putKeeps⟩ := singleComparison_shows (writeAdcr s v) (by rw [hput])
  obtain ⟨startResult, -, startKeeps⟩ := singleComparison_shows (adcStart s) (by rw [hstart])
  refine ⟨exec_put_ok s _ 0x04 rfl, putResult.trans ?_, fun n hn => (putBefore n hn).trans ?_,
    fun n hn => (putKeeps n hn).trans ?_, exec_poke_adcStart s, startResult.trans ?_,
    (startKeeps 3 (by decide)).trans ?_⟩
  · rw [hput]; rfl
  · rw [hput]
  · rw [hput]
  · rw [hstart]; rfl
  · rw [hstart]

end Sys2Proof.Machine
end

section
/-! Counting (O46, O50, O51): what a run of pulses makes of timer 0, of timer 1, alone and behind timer 0, of a wait and of the
interval timer, each by one counting argument. -/

namespace Sys2Proof.Machine

/-! ### Runs of pulses -/

/-- A pulse that leads from each state of a sequence to the next leads along the sequence. -/
theorem iterate_counts (pulse : State → State) (u : Nat → State) (last : Nat)
    (h : ∀ k, k < last → pulse (u k) = u (k + 1)) (n : Nat) (hn : n ≤ last) : pulse^[n] (u 0) = u n := by
  induction n with
  | zero => rfl
  | succ n ih => rw [Function.iterate_succ_apply', ih (by omega), h n hn]

theorem byte_succ (k : Nat) : BitVec.ofNat 8 k + 1 = BitVec.ofNat 8 (k + 1) := (BitVec.ofNat_add k 1).symm

/-- A count below the modulo value is not at it. -/
theorem byte_ne_of_lt {k : Nat} {m : Byte} (h : k < m.toNat) : BitVec.ofNat 8 k ≠ m := by
  rintro rfl
  rw [BitVec.toNat_ofNat] at h
  omega

theorem byte_toNat_of_le {k : Nat} {m : Byte} (h : k ≤ m.toNat) : (BitVec.ofNat 8 k).toNat = k := by
  rw [BitVec.toNat_ofNat]
  have := m.isLt
  omega

/-! ### Timer 0 -/

/-- Timer 0 with a count. -/
def tm0At (s : State) (k : Nat) : State := { s with tm0 := { s.tm0 with count := BitVec.ofNat 8 k } }

theorem tm0At_count (s : State) (k : Nat) (h : s.tm0.count = BitVec.ofNat 8 k) : tm0At s k = s := by
  unfold tm0At
  rw [← h]

/-- Up to its modulo value an enabled timer 0 counts its pulses, and does nothing else (R363). -/
theorem tm0Pulse_iterate (s : State) (he : s.tm0.en = true) (h0 : s.tm0.count = 0) (n : Nat)
    (hn : n ≤ s.tm0.modulo.toNat) : tm0Pulse^[n] s = tm0At s n := by
  have hrun := iterate_counts tm0Pulse (tm0At s) s.tm0.modulo.toNat (fun k hk =>
    (tm0Pulse_before (tm0At s k) he (byte_ne_of_lt hk)).trans (by unfold tm0At; simp only [byte_succ])) n hn
  rwa [tm0At_count s 0 h0] at hrun

/-- The pulse after it is the match, a pulse to timer 1 while TM1CK is 11 (R363, R368). -/
theorem tm0Pulse_period (s : State) (he : s.tm0.en = true) (h0 : s.tm0.count = 0) :
    tm0Pulse^[s.tm0.modulo.toNat + 1] s =
      (let t := { s with irq := { s.irq with tm0 := true } }
       if s.tm1.ck = 3 then tm1Pulse t else t) := by
  have hmatch : (tm0At s s.tm0.modulo.toNat).tm0.count = (tm0At s s.tm0.modulo.toNat).tm0.modulo :=
    BitVec.ofNat_toNat ..
  rw [Function.iterate_succ_apply', tm0Pulse_iterate s he h0 _ (Nat.le_refl _),
    tm0Pulse_match (tm0At s s.tm0.modulo.toNat) he hmatch]
  unfold tm0At
  rw [← h0]

/-! ### Timer 1 -/

/-- Timer 1 with a count. -/
def tm1At (s : State) (k : Nat) : State := { s with tm1 := { s.tm1 with count := BitVec.ofNat 8 k } }

theorem tm1At_count (s : State) (k : Nat) (h : s.tm1.count = BitVec.ofNat 8 k) : tm1At s k = s := by
  unfold tm1At
  rw [← h]

/-- A count of timer 1 below its modulo value. -/
theorem tm1Pulse_before (s : State) (he : s.tm1.en = true) (hm : s.mode = .run) (h : s.tm1.count ≠ s.tm1.modulo) :
    tm1Pulse s = { s with tm1 := { s.tm1 with count := s.tm1.count + 1 } } :=
  (tm1Pulse_run s he hm).trans (if_neg h)

/-- The match of timer 1 (R363, R369). -/
theorem tm1Pulse_match (s : State) (he : s.tm1.en = true) (hm : s.mode = .run) (h : s.tm1.count = s.tm1.modulo) :
    tm1Pulse s =
      { s with tm1 := { s.tm1 with count := 0 }, irq := { s.irq with tm1 := true }, tm1Out := !s.tm1Out } :=
  (tm1Pulse_run s he hm).trans (if_pos h)

theorem tm1Pulse_iterate (s : State) (hm : s.mode = .run) (he : s.tm1.en = true) (h0 : s.tm1.count = 0) (n : Nat)
    (hn : n ≤ s.tm1.modulo.toNat) : tm1Pulse^[n] s = tm1At s n := by
  have hrun := iterate_counts tm1Pulse (tm1At s) s.tm1.modulo.toNat (fun k hk =>
    (tm1Pulse_before (tm1At s k) he hm (byte_ne_of_lt hk)).trans (by unfold tm1At; simp only [byte_succ])) n hn
  rwa [tm1At_count s 0 h0] at hrun

theorem tm1Pulse_period (s : State) (hm : s.mode = .run) (he : s.tm1.en = true) (h0 : s.tm1.count = 0) :
    tm1Pulse^[s.tm1.modulo.toNat + 1] s = { s with irq := { s.irq with tm1 := true }, tm1Out := !s.tm1Out } := by
  have hmatch : (tm1At s s.tm1.modulo.toNat).tm1.count = (tm1At s s.tm1.modulo.toNat).tm1.modulo :=
    BitVec.ofNat_toNat ..
  rw [Function.iterate_succ_apply', tm1Pulse_iterate s hm he h0 _ (Nat.le_refl _),
    tm1Pulse_match (tm1At s s.tm1.modulo.toNat) he hm hmatch]
  unfold tm1At
  rw [← h0]

/-! ### Timer 1 behind timer 0 -/

/-- Timer 1 with a count of whole periods of timer 0, the first of which set timer 0's request. -/
def cascadeAt (s : State) (k : Nat) : State :=
  { tm1At s k with irq := { s.irq with tm0 := s.irq.tm0 || decide (k ≠ 0) } }

section
variable (s : State) (he0 : s.tm0.en = true) (hck : s.tm1.ck = 3) (h0 : s.tm0.count = 0)
include he0 hck h0

/-- A period of timer 0 is one count pulse of timer 1 while TM1CK is 11 (R368). -/
theorem cascade_period (k : Nat) :
    tm0Pulse^[s.tm0.modulo.toNat + 1] (cascadeAt s k) =
      tm1Pulse { cascadeAt s k with irq := { s.irq with tm0 := true } } :=
  (tm0Pulse_period (cascadeAt s k) he0 h0).trans (if_pos hck)

variable (hm : s.mode = .run) (he1 : s.tm1.en = true) (h1 : s.tm1.count = 0)
include hm he1 h1

theorem cascade_iterate (n : Nat) (hn : n ≤ s.tm1.modulo.toNat) :
    tm0Pulse^[(s.tm0.modulo.toNat + 1) * n] s = cascadeAt s n := by
  have hstart : cascadeAt s 0 = s := by
    unfold cascadeAt
    rw [tm1At_count s 0 h1]
    simp
  have hrun := iterate_counts tm0Pulse^[s.tm0.modulo.toNat + 1] (cascadeAt s) s.tm1.modulo.toNat (fun k hk => by
    rw [cascade_period s he0 hck h0,
      tm1Pulse_before { cascadeAt s k with irq := { s.irq with tm0 := true } } he1 hm (byte_ne_of_lt hk)]
    unfold cascadeAt tm1At
    simp [← byte_succ k]) n hn
  rwa [hstart, ← Function.iterate_mul] at hrun

/-- The period after the modulo value of timer 1 is its match. -/
theorem cascade_match :
    tm0Pulse^[(s.tm0.modulo.toNat + 1) * (s.tm1.modulo.toNat + 1)] s =
      { s with irq := { s.irq with tm0 := true, tm1 := true }, tm1Out := !s.tm1Out } := by
  have hmatch : (tm1At s s.tm1.modulo.toNat).tm1.count = s.tm1.modulo := BitVec.ofNat_toNat ..
  rw [Nat.mul_succ, Nat.add_comm, Function.iterate_add_apply,
    cascade_iterate s he0 hck h0 hm he1 h1 _ (Nat.le_refl _), cascade_period s he0 hck h0,
    tm1Pulse_match { cascadeAt s s.tm1.modulo.toNat with irq := { s.irq with tm0 := true } } he1 hm hmatch]
  unfold cascadeAt tm1At
  rw [← h1]

end

/-! ### Waits -/

theorem waitModulo_toNat (w : WaitFor) (s : State) :
    (waitModulo w s).toNat = if w = .stopRelease then s.tm1.modulo.toNat else 255 := by
  cases w <;> rfl

/-- A wait counts its pulses up to its last value (R464, R501). -/
theorem waitCount_iterate (w : WaitFor) (s : State) (h0 : s.tm1.count = 0) (n : Nat)
    (hn : n ≤ (waitModulo w s).toNat) : (waitCount w)^[n] s = tm1At s n := by
  have hrun := iterate_counts (waitCount w) (tm1At s) (waitModulo w s).toNat (fun k hk => by
    have hmod : waitModulo w (tm1At s k) = waitModulo w s := by cases w <;> rfl
    rw [waitCount_before w (tm1At s k) (hmod ▸ byte_ne_of_lt hk)]
    unfold tm1At
    simp only [byte_succ]) n hn
  rwa [tm1At_count s 0 h0] at hrun

/-- The pulse after it ends the wait (R370). -/
theorem waitCount_end (w : WaitFor) (s : State) (h0 : s.tm1.count = 0) :
    (waitCount w)^[(waitModulo w s).toNat + 1] s =
      { s with
        irq := { s.irq with tm1 := waitIrq w s }
        tm1Out := if s.tm1.en then !s.tm1Out else s.tm1Out
        mode := .run } := by
  have hlast : (tm1At s (waitModulo w s).toNat).tm1.count = waitModulo w (tm1At s (waitModulo w s).toNat) := by
    refine Eq.trans (BitVec.ofNat_toNat ..) ?_
    cases w <;> rfl
  have hirq : ∀ k, waitIrq w (tm1At s k) = waitIrq w s := fun k => by cases w <;> rfl
  rw [Function.iterate_succ_apply', waitCount_iterate w s h0 _ (Nat.le_refl _), waitCount_last w _ hlast, hirq]
  unfold tm1At
  rw [← h0]

/-! ### The interval timer -/

/-- An interval ends where the count comes to a multiple of 32 or 128 (R381). -/
theorem btmInterval_succ (isel : Bool) (cnt : BitVec 7) :
    btmInterval isel (cnt + 1) = decide ((cnt.toNat + 1) % (if isel then 32 else 128) = 0) := by
  revert isel cnt
  decide

/-- A pulse with the watchdog off. -/
theorem btmPulse_off (s : State) (h : s.btm.wdtEn = false) :
    btmPulse s = { s with
      btm := { s.btm with cnt := s.btm.cnt + 1, wdtDiv := false }
      irq := { s.irq with btm := s.irq.btm || btmInterval s.btm.isel (s.btm.cnt + 1) } } := by
  have hnext : btmNext s.btm = { s.btm with cnt := s.btm.cnt + 1, wdtDiv := false } := by
    unfold btmNext
    simp only [h, Bool.false_and, Bool.false_eq_true, if_false]
  rw [btmPulse_eq, h, hnext]
  rfl

/-- The period of the interval timer in pulses, by BTMISEL (R381). -/
def btmPeriod (s : State) : Nat := if s.btm.isel then 32 else 128

/-- The interval timer after `m` pulses from a count of `c`: a request for every multiple of its period on the way. -/
def btmAt (s : State) (c m : Nat) (div : Bool) : State :=
  { s with
    btm := { s.btm with cnt := BitVec.ofNat 7 (c + m), wdtDiv := div }
    irq := { s.irq with btm := s.irq.btm || decide (c / btmPeriod s < (c + m) / btmPeriod s) } }

/-- One more pulse passes a multiple of the period where its count is one. -/
theorem btmPeriod_succ (s : State) (c m : Nat) :
    (decide (c / btmPeriod s < (c + m) / btmPeriod s) || btmInterval s.btm.isel (BitVec.ofNat 7 (c + m) + 1)) =
      decide (c / btmPeriod s < (c + (m + 1)) / btmPeriod s) := by
  rw [btmInterval_succ, BitVec.toNat_ofNat, ← Bool.decide_or, decide_eq_decide]
  unfold btmPeriod
  cases s.btm.isel
  · simp only [Bool.false_eq_true, if_false]
    omega
  · simp only [if_true]
    omega

/-- The interval timer counts modulo 128, and requests where a multiple of its period has come (R381). -/
theorem btmPulse_iterate (s : State) (h : s.btm.wdtEn = false) (c : Nat) (hc : s.btm.cnt = BitVec.ofNat 7 c) (m : Nat) :
    ∃ div, btmPulse^[m] s = btmAt s c m div := by
  induction m with
  | zero =>
    refine ⟨s.btm.wdtDiv, ?_⟩
    unfold btmAt
    rw [Nat.add_zero, ← hc, decide_eq_false (Nat.lt_irrefl _), Bool.or_false]
    rfl
  | succ m ih =>
    obtain ⟨d, hd⟩ := ih
    refine ⟨false, ?_⟩
    rw [Function.iterate_succ_apply', hd, btmPulse_off (btmAt s c m d) h]
    unfold btmAt
    simp only [Bool.or_assoc, btmPeriod_succ]
    rw [← Nat.add_assoc, BitVec.ofNat_add (c + m) 1]
    rfl

end Sys2Proof.Machine
end

section
/-! A clocked cycle seen from outside: the pulses and edges it gives the timers and the serial interface, as divisions of the
prescaler's next count, and what they do there. -/

namespace Sys2Proof.Machine

/-! ### The sample and the INT pin -/

theorem nextSample_cons (s : State) (p : Pins) (rest : List Pins) (h : s.inputs = p :: rest) :
    (nextSample s).pins = p ∧ (nextSample s).inputs = rest := by
  unfold nextSample
  rw [h]
  exact ⟨rfl, rfl⟩

/-- When no sample is left the last one stays (log 2). -/
theorem nextSample_nil (s : State) (h : s.inputs = []) :
    (nextSample s).pins = s.pins ∧ (nextSample s).inputs = [] := by
  unfold nextSample
  rw [h]
  exact ⟨rfl, rfl⟩

/-- A field that the sample leaves. -/
theorem nextSample_field {α : Type} (f : State → α)
    (hf : ∀ (u : State) p l n, f { u with pins := p, inputs := l, freeIdx := n } = f u) (s : State) :
    f (nextSample s) = f s := by
  rw [nextSample_frame]
  exact hf s _ _ _

/-- The edge that timer 0 counts (R362, D27). -/
theorem tm0ExtPulse_next (s : State) : tm0ExtPulse (nextSample s) = tm0EdgeNext s := by
  unfold tm0ExtPulse tm0EdgeNext intRises intFalls
  rw [nextSample_field State.cfg (fun _ _ _ _ => rfl), nextSample_field State.intPrev (fun _ _ _ _ => rfl)] <;> rfl

/-- What the edge detector makes of the next sample (R450). -/
theorem intSampled_of_intCycle (s t : State) (hp : t.intPrev = pinInt (nextSample s))
    (hi : t.irq.int = (intCycle (nextSample s)).irq.int) : intSampled s t := by
  have h := (intEdges (nextSample s)).1
  rw [nextSample_field (·.irq.int) (fun _ _ _ _ => rfl), nextSample_field State.intPrev (fun _ _ _ _ => rfl),
    nextSample_field State.iegmd (fun _ _ _ _ => rfl)] at h
  exact ⟨hp, hi ▸ h⟩

/-! ### The timers -/

/-- The pulse that the next clocked cycle gives timer 0 (R362, D23). -/
def tm0PulseNext (s : State) : Bool :=
  match s.tm0.ck.toNat with
  | 0 => true
  | 1 => decide ((s.prescaler.toNat + 1) % 32 = 0)
  | 2 => decide ((s.prescaler.toNat + 1) % 4 = 0)
  | _ => tm0EdgeNext s

theorem tm0Clock_next (s : State) :
    tm0Clock (prescalerCycle s) (tm0ExtPulse (nextSample s)) = tm0PulseNext s := by
  unfold tm0Clock dividedFalls prescalerCycle
  simp only [tm0ExtPulse_next, prescaler_mod s.prescaler (2 ^ (4 + 1)) ⟨32, rfl⟩ 0,
    prescaler_mod s.prescaler (2 ^ (1 + 1)) ⟨256, rfl⟩ 0]
  rfl

/-- The division of the prescaler that TM1CK selects, at the count `p`; timer 0's match is none (R362, D23). -/
def tm1Division (ck p : Nat) : Bool :=
  match ck with
  | 0 => decide (p % 8 = 0)
  | 1 => decide (p % 512 = 0)
  | 2 => true
  | _ => false

theorem tm1Clock_eq (s : State) : tm1Clock s = tm1Division s.tm1.ck.toNat s.prescaler.toNat := rfl

theorem dvd_tm1Division (ck : Nat) (p : BitVec 10) : tm1Division ck (p + 1).toNat = tm1Division ck (p.toNat + 1) := by
  unfold tm1Division
  simp only [prescaler_mod p 8 ⟨128, rfl⟩ 0, prescaler_mod p 512 ⟨2, rfl⟩ 0]

/-- The state in which timer 1 has its part of a clocked cycle. -/
def tm1Input (s : State) : State := tm0Cycle (tm0ExtPulse (nextSample s)) (prescalerCycle (intCycle (nextSample s)))

/-- The match of timer 0 in the next clocked cycle is a pulse to timer 1 where TM1CK is 11 (R368). -/
def cascadeNext (s : State) : Bool := timerMatches s.tm0 (tm0PulseNext s) && decide (s.tm1.ck = 3) && tm1Free s

theorem tm1Input_eq (s : State) :
    tm1Input s =
      { s with
        pins := (nextSample s).pins, inputs := (nextSample s).inputs, freeIdx := (nextSample s).freeIdx
        prescaler := s.prescaler + 1, intPrev := pinInt (nextSample s)
        tm0 := timerAfter s.tm0 (tm0PulseNext s)
        tm1 := timerAfter s.tm1 (cascadeNext s)
        tm1Out := s.tm1Out ^^ timerMatches s.tm1 (cascadeNext s)
        irq := { (intCycle (nextSample s)).irq with
          tm0 := s.irq.tm0 || timerMatches s.tm0 (tm0PulseNext s)
          tm1 := s.irq.tm1 || timerMatches s.tm1 (cascadeNext s) } } := by
  have hclock : tm0Clock (prescalerCycle (intCycle (nextSample s))) (tm0ExtPulse (nextSample s)) = tm0PulseNext s := by
    rw [← tm0Clock_next]
    generalize tm0ExtPulse (nextSample s) = e
    rw [nextSample_frame]
    rfl
  unfold tm1Input cascadeNext
  rw [tm0Cycle_eq, hclock]
  generalize tm0PulseNext s = p
  rw [nextSample_frame]
  rfl

/-- Every field of the timers, the mode and the edge detector is, after a clocked cycle that resets nothing, as timer 1's part
leaves it. -/
theorem clockedCycle_of_tm1 (s : State) (h : wdtResetsNext s = false) :
    let c := tm1Cycle (tm1Input s)
    let t := clockedCycle s
    t.tm0 = c.tm0 ∧ t.tm1 = c.tm1 ∧ t.tm1Out = c.tm1Out ∧ t.mode = c.mode ∧
      t.irq.tm0 = c.irq.tm0 ∧ t.irq.tm1 = c.irq.tm1 ∧ t.irq.int = c.irq.int ∧ t.intPrev = c.intPrev ∧
      t.pins = c.pins ∧ t.inputs = c.inputs ∧ t.prescaler = c.prescaler := by
  intro c t
  have e : t = _ := clockedCycle_eq s
  rw [h, if_neg Bool.false_ne_true] at e
  rw [e]
  exact ⟨rfl, rfl, rfl, rfl, rfl, rfl, rfl, rfl, rfl, rfl, rfl⟩

/-- What timer 1's part leaves alone. -/
theorem tm1Cycle_keeps (s : State) :
    (tm1Cycle s).tm0 = s.tm0 ∧ (tm1Cycle s).irq.tm0 = s.irq.tm0 ∧ (tm1Cycle s).irq.int = s.irq.int ∧
      (tm1Cycle s).intPrev = s.intPrev ∧ (tm1Cycle s).pins = s.pins ∧ (tm1Cycle s).inputs = s.inputs ∧
      (tm1Cycle s).prescaler = s.prescaler := by
  obtain ⟨t, b, o, m, h, -⟩ := tm1Cycle_frame s
  rw [h]
  exact ⟨rfl, rfl, rfl, rfl, rfl, rfl, rfl⟩

/-- Timer 0 after a clocked cycle. -/
theorem clockedCycle_tm0 (s : State) (h : wdtResetsNext s = false) :
    (clockedCycle s).tm0 = timerAfter s.tm0 (tm0PulseNext s) ∧
      (clockedCycle s).irq.tm0 = (s.irq.tm0 || timerMatches s.tm0 (tm0PulseNext s)) := by
  obtain ⟨htm0, -, -, -, hirq, -⟩ := clockedCycle_of_tm1 s h
  obtain ⟨ktm0, kirq, -⟩ := tm1Cycle_keeps (tm1Input s)
  rw [htm0, hirq, ktm0, kirq, tm1Input_eq]
  exact ⟨rfl, rfl⟩

/-- The sample, the prescaler and the INT pin in a clocked cycle. -/
theorem clockedCycle_samples (s : State) (h : wdtResetsNext s = false) :
    (clockedCycle s).pins = (nextSample s).pins ∧ (clockedCycle s).inputs = (nextSample s).inputs ∧
      (clockedCycle s).prescaler = s.prescaler + 1 ∧ intSampled s (clockedCycle s) := by
  obtain ⟨-, -, -, -, -, -, hint, hprev, hpins, hinputs, hpre⟩ := clockedCycle_of_tm1 s h
  obtain ⟨-, -, kint, kprev, kpins, kinputs, kpre⟩ := tm1Cycle_keeps (tm1Input s)
  rw [tm1Input_eq] at kint kprev kpins kinputs kpre
  rw [tm1Input_eq] at hint hprev hpins hinputs hpre
  exact ⟨hpins.trans kpins, hinputs.trans kinputs, hpre.trans kpre,
    intSampled_of_intCycle s _ (hprev.trans kprev) (hint.trans kint)⟩

/-- The pulse that the next clocked cycle gives timer 1 in RUN and HALT: its division, or with TM1CK = 11 timer 0's match
(R362, R368). -/
def tm1PulseNext (s : State) : Bool :=
  match s.tm1.ck.toNat with
  | 0 => decide ((s.prescaler.toNat + 1) % 8 = 0)
  | 1 => decide ((s.prescaler.toNat + 1) % 512 = 0)
  | 2 => true
  | _ => timerMatches s.tm0 (tm0PulseNext s)

/-- Its two sources exclude each other. -/
theorem tm1PulseNext_cases (s : State) (hf : tm1Free s = true) :
    (cascadeNext s = false ∧ tm1PulseNext s = tm1Division s.tm1.ck.toNat (s.prescaler.toNat + 1)) ∨
      (cascadeNext s = tm1PulseNext s ∧ tm1Division s.tm1.ck.toNat (s.prescaler.toNat + 1) = false) := by
  have hck : ∀ k : BitVec 2, k = 0 ∨ k = 1 ∨ k = 2 ∨ k = 3 := by decide
  unfold cascadeNext tm1PulseNext
  rw [hf, Bool.and_true]
  rcases hck s.tm1.ck with h | h | h | h <;> rw [h]
  · exact .inl ⟨Bool.and_false _, rfl⟩
  · exact .inl ⟨Bool.and_false _, rfl⟩
  · exact .inl ⟨Bool.and_false _, rfl⟩
  · exact .inr ⟨Bool.and_true _, rfl⟩

/-- Timer 1 after a clocked cycle of RUN or HALT. -/
theorem clockedCycle_tm1 (s : State) (h : wdtResetsNext s = false) (hf : tm1Free s = true) :
    (clockedCycle s).tm1 = timerAfter s.tm1 (tm1PulseNext s) ∧
      (clockedCycle s).irq.tm1 = (s.irq.tm1 || timerMatches s.tm1 (tm1PulseNext s)) ∧
      (clockedCycle s).tm1Out = (s.tm1Out ^^ timerMatches s.tm1 (tm1PulseNext s)) := by
  obtain ⟨-, htm1, hout, -, -, hirq, -⟩ := clockedCycle_of_tm1 s h
  have hfree : tm1Free (tm1Input s) = true := by
    rw [tm1Input_eq]
    exact hf
  have hclock : tm1Clock (tm1Input s) = tm1Division s.tm1.ck.toNat (s.prescaler.toNat + 1) := by
    rw [tm1Clock_eq, ← dvd_tm1Division, tm1Input_eq]
    rfl
  rw [htm1, hirq, hout, tm1Cycle_eq _ hfree, hclock, tm1Input_eq]
  rcases tm1PulseNext_cases s hf with ⟨hc, hp⟩ | ⟨hc, hd⟩
  · rw [hc, ← hp]
    simp only [timerAfter_none, timerMatches_none, Bool.or_false, Bool.xor_false, and_self]
  · rw [hc, hd]
    simp only [timerAfter_none, timerMatches_none, Bool.or_false, Bool.xor_false, and_self]

/-- Settles O50: runs of pulses by the counting lemmas, the pulses of a cycle by `clockedCycle_tm0` and `clockedCycle_tm1`. -/
theorem timerPeriod : Obligations.TimerPeriod := by
  refine fun s n => ⟨fun he h0 hn => ?timer0, fun hm he h0 hn => ?timer1, fun he => if_neg (by simp [he]),
    fun he => if_neg (by simp [he]), fun hm he0 he1 hck h0 h1 => ?cascade, fun h => ?cycle⟩
  case timer0 =>
    rw [tm0Pulse_iterate s he h0 n hn]
    refine ⟨byte_toNat_of_le hn, rfl, rfl, ?_⟩
    rintro rfl
    by_cases hck : s.tm1.ck = 3
    · rw [(tm0Pulse_period s he h0).trans (if_pos hck), tm1Pulse_eq]
      exact ⟨h0, rfl, fun hne => absurd hck hne⟩
    · rw [(tm0Pulse_period s he h0).trans (if_neg hck)]
      exact ⟨h0, rfl, fun _ => ⟨rfl, rfl⟩⟩
  case timer1 =>
    rw [tm1Pulse_iterate s hm he h0 n hn]
    refine ⟨byte_toNat_of_le hn, rfl, rfl, ?_⟩
    rintro rfl
    rw [tm1Pulse_period s hm he h0]
    exact ⟨h0, rfl, rfl⟩
  case cascade =>
    intro all
    refine ⟨fun hn => ?counts, ?last⟩
    case counts =>
      rw [show all n = _ from cascade_iterate s he0 hck h0 hm he1 h1 n hn]
      exact ⟨byte_toNat_of_le hn, h0, rfl, rfl⟩
    case last =>
      rintro rfl
      rw [show all _ = _ from cascade_match s he0 hck h0 hm he1 h1]
      exact ⟨h1, h0, rfl, rfl⟩
  case cycle =>
    obtain ⟨htm0, hirq0⟩ := clockedCycle_tm0 s h
    refine ⟨htm0, hirq0, fun hmode => clockedCycle_tm1 s h ?_⟩
    unfold tm1Free
    rcases hmode with hm | ⟨_, hm⟩ <;> rw [hm]

/-- Settles O51: a run of pulses by `btmPulse_iterate`, from 0 and again from where the flag is cleared; the pulse of a cycle
by `clockedCycle_eq`. -/
theorem intervalTimer : Obligations.IntervalTimer := by
  refine fun s n m => ⟨fun hoff h0 hirq => ?runs, fun h => ?cycle⟩
  case runs =>
    intro period u cleared
    obtain ⟨d, hu⟩ := btmPulse_iterate s hoff 0 h0 n
    change u = _ at hu
    have hcnt : u.btm.cnt = BitVec.ofNat 7 n := by
      rw [hu]
      exact congrArg (BitVec.ofNat 7) (Nat.zero_add n)
    have hkept : u.btm.wdtEn = false ∧ btmPeriod cleared = period := by
      show u.btm.wdtEn = false ∧ btmPeriod u = period
      rw [hu]
      exact ⟨hoff, rfl⟩
    obtain ⟨d', hc⟩ := btmPulse_iterate cleared hkept.1 n hcnt m
    have hpos : 0 < period := by
      show 0 < if s.btm.isel then 32 else 128
      split <;> decide
    refine ⟨hcnt, ?_, ?_, ?_⟩
    · rw [hu]
      show (s.irq.btm || decide (0 / period < (0 + n) / period)) = true ↔ _
      rw [hirq, Bool.false_or, decide_eq_true_eq, Nat.zero_add, Nat.zero_div, Nat.div_pos_iff]
      exact and_iff_right hpos
    · rw [hu]
      rfl
    · rw [hc]
      show (false || decide (n / btmPeriod cleared < (n + m) / btmPeriod cleared)) = true ↔ _
      rw [hkept.2, Bool.false_or, decide_eq_true_eq]
  case cycle =>
    have e := clockedCycle_eq s
    simp only at e
    rw [h, if_neg Bool.false_ne_true] at e
    rw [e]
    have hnext : ∀ b : Bool, (if b then btmNext s.btm else s.btm).isel = s.btm.isel ∧
        (if b then btmNext s.btm else s.btm).ck = s.btm.ck ∧
        (if b then btmNext s.btm else s.btm).wdtEn = s.btm.wdtEn := by
      intro b
      cases b <;> exact ⟨rfl, rfl, rfl⟩
    obtain ⟨hisel, hck, hen⟩ := hnext (btmPulseNext s)
    refine ⟨hisel, hck, hen, fun hp => ?_, fun hp => ?_⟩
    · rw [hp]
      exact ⟨rfl, by rw [← btmInterval_succ]; rfl⟩
    · rw [hp]
      exact ⟨rfl, Bool.or_false _⟩

end Sys2Proof.Machine
end

section
/-! The serial interface (O58): a transfer of eight clocks, and the clock edges that a cycle gives a transfer. -/

namespace Sys2Proof.Machine

/-! ### Eight clocks -/

/-- One shift of SIOSFR, SI into bit 0 (R412). -/
def shiftIn (si : Bool) (x : Byte) : Byte := x.extractLsb' 0 7 ++ BitVec.ofBool si

theorem shiftIn_getLsbD_zero (si : Bool) (x : Byte) : (shiftIn si x).getLsbD 0 = si := by
  unfold shiftIn
  rw [BitVec.getLsbD_append]
  simp

theorem shiftIn_getLsbD_succ (si : Bool) (x : Byte) (i : Nat) (hi : i < 7) :
    (shiftIn si x).getLsbD (i + 1) = x.getLsbD i := by
  unfold shiftIn
  rw [BitVec.getLsbD_append]
  simp [hi]

/-- A bit moves up by one place a clock. -/
theorem shiftIn_iterate_getLsbD (si : Bool) (x : Byte) (n i : Nat) (h : i + n < 8) :
    ((shiftIn si)^[n] x).getLsbD (i + n) = x.getLsbD i := by
  induction n with
  | zero => rfl
  | succ n ih =>
    rw [Function.iterate_succ_apply', ← ih (by omega)]
    exact shiftIn_getLsbD_succ si _ (i + n) (by omega)

/-- Eight clocks replace every bit. -/
theorem shiftIn_eight (si : Bool) (x : Byte) : (shiftIn si)^[8] x = if si then 0xFF else 0x00 := by
  have hall : ∀ b : Bool, ∀ i : Fin 8, (if b then 0xFF else 0x00 : Byte).getLsbD i = b := by decide
  refine BitVec.eq_of_getLsbD_eq fun i hi => ?_
  have hmoved := shiftIn_iterate_getLsbD si ((shiftIn si)^[8 - i] x) i 0 (by omega)
  rw [← Function.iterate_add_apply, Nat.zero_add, Nat.add_sub_of_le (Nat.le_of_lt hi)] at hmoved
  rw [hmoved, hall si ⟨i, hi⟩, show 8 - i = (7 - i) + 1 by omega, Function.iterate_succ_apply', shiftIn_getLsbD_zero]

/-- A whole clock of an undisturbed transfer (R412). -/
theorem serialClock_eq (u : State) (h : u.sio.tainted = false) :
    sioRise (sioFall u) =
      { u with
        sio := { u.sio with
          sfr := shiftIn ((pinsD u).getLsbD 2) u.sio.sfr, soLatch := u.sio.sfr.getLsbD 7, cnt := u.sio.cnt + 1
          sckLow := false, ts := u.sio.ts && decide (u.sio.cnt ≠ 7), tainted := false }
        irq := { u.irq with sio := u.irq.sio || decide (u.sio.cnt = 7) } } := by
  have hlatch : (sioFall u).sio = { u.sio with soLatch := u.sio.sfr.getLsbD 7, sckLow := true } := by
    unfold sioFall
    rw [h]
    rfl
  have hshift : sioShifted (sioFall u) = shiftIn ((pinsD u).getLsbD 2) u.sio.sfr := by
    unfold sioShifted
    rw [hlatch, h, if_neg Bool.false_ne_true, ← pinsD_si_sio u (sioFall u).sio]
    rfl
  unfold sioRise
  rw [hshift, hlatch]
  by_cases h7 : u.sio.cnt = 7
  · simp only [h7, if_true, decide_true, Bool.or_true, ne_eq, not_true, decide_false, Bool.and_false]
    rfl
  · simp only [h7, h, if_true, if_false, decide_false, Bool.or_false, ne_eq, not_false_eq_true, decide_true,
      Bool.and_true]
    rfl

/-- `t` is the state after `n` clocks of a transfer of `s` into which SI is shifted steadily (R412). -/
structure Transferring (s : State) (si : Bool) (n : Nat) (t : State) : Prop where
  clean : t.sio.tainted = false
  level : (pinsD t).getLsbD 2 = si
  count : t.sio.cnt = BitVec.ofNat 3 n
  going : t.sio.ts = decide (n < 8)
  request : n = 8 → t.irq.sio = true
  shifted : t.sio.sfr = (shiftIn si)^[n] s.sio.sfr

theorem transferring_succ (s t : State) (si : Bool) (n : Nat) (hn : n < 8) (h : Transferring s si n t) :
    Transferring s si (n + 1) (sioRise (sioFall t)) ∧
      (sioRise (sioFall t)).sio.soLatch = s.sio.sfr.getLsbD (7 - n) := by
  have hseven : t.sio.cnt = 7 ↔ n = 7 := by
    rw [h.count, ← BitVec.toNat_inj, BitVec.toNat_ofNat, Nat.mod_eq_of_lt (by omega)]
    rfl
  rw [serialClock_eq t h.clean, h.level, h.shifted]
  refine ⟨⟨rfl, ?level, ?count, ?going, fun h8 => ?request, ?shifted⟩, ?latch⟩
  case level => exact (pinsD_si_sio t _).trans h.level
  case count =>
    show t.sio.cnt + 1 = _
    rw [h.count]
    exact (BitVec.ofNat_add n 1).symm
  case going =>
    show (t.sio.ts && decide (t.sio.cnt ≠ 7)) = _
    rw [h.going, ← Bool.decide_and, decide_eq_decide, ne_eq, hseven]
    omega
  case request =>
    show (t.irq.sio || decide (t.sio.cnt = 7)) = true
    rw [decide_eq_true (hseven.mpr (by omega)), Bool.or_true]
  case shifted => exact (Function.iterate_succ_apply' (shiftIn si) n s.sio.sfr).symm
  case latch =>
    have hbit := shiftIn_iterate_getLsbD si s.sio.sfr n (7 - n) (by omega)
    rwa [show 7 - n + n = 7 by omega] at hbit

theorem transferring_iterate (s : State) (si : Bool) (h : Transferring s si 0 s) (n : Nat) (hn : n ≤ 8) :
    Transferring s si n ((fun u => sioRise (sioFall u))^[n] s) := by
  induction n with
  | zero => exact h
  | succ n ih =>
    rw [Function.iterate_succ_apply']
    exact (transferring_succ s _ si n hn (ih (by omega))).1

/-! ### The edges of a cycle -/

/-- `v` holds what the serial interface looks at in the next cycle of `s`. -/
structure SerialInput (s v : State) : Prop where
  sio : v.sio = s.sio
  irq : v.irq.sio = s.irq.sio
  ports : v.ports = s.ports
  /-- SCK and SI are the levels of the next sample -/
  pins : ∀ n, n < 3 → (pinsD v).getLsbD n = (pinsD (nextSample s)).getLsbD n

/-- The serial clock falls in the next clocked cycle (R411, D23). -/
def serialFalls (s : State) : Bool :=
  match s.sio.ck.toNat with
  | 0 => s.sio.sckPrev && !sckNext s
  | 1 => true
  | 2 => decide ((s.prescaler.toNat + 1) % 8 = 0)
  | _ => decide ((s.prescaler.toNat + 1) % 64 = 0)

/-- The serial clock rises in the next clocked cycle. -/
def serialRises (s : State) : Bool :=
  match s.sio.ck.toNat with
  | 0 => !s.sio.sckPrev && sckNext s
  | 1 => true
  | 2 => decide ((s.prescaler.toNat + 1) % 8 = 4)
  | _ => decide ((s.prescaler.toNat + 1) % 64 = 32)

/-- A falling edge, then a rising edge, where the clock gives them. -/
def serialEdges (falls rises : Bool) (c : State) : State :=
  let a := if falls then sioFall c else c
  if rises then sioRise a else a

/-- Edges that exclude each other. -/
theorem serialEdges_exclusive (falls rises : Bool) (c : State) (h : falls = true → rises = false) :
    serialEdges falls rises c = if falls then sioFall c else if rises then sioRise c else c := by
  cases falls
  · rfl
  · rw [h rfl]
    rfl

/-- The check of the pins can only spoil the data. -/
theorem sioCheckPins_sio (v : State) : ∃ b, sioCheckPins v = { v with sio := { v.sio with tainted := b } } := by
  unfold sioCheckPins
  cases v.ports.sioen
  · exact ⟨true, rfl⟩
  · exact ⟨v.sio.tainted, rfl⟩

/-- The edges of an internal clock are those of its division of the prescaler (R411, D23). -/
theorem sioDivided_edges (s v : State) (hp : v.prescaler = s.prescaler + 1) (k : Nat) (hk : 2 ^ (k + 1) ∣ 1024) :
    sioDivided (sioCheckPins v) k =
      serialEdges (decide ((s.prescaler.toNat + 1) % 2 ^ (k + 1) = 0))
        (decide ((s.prescaler.toNat + 1) % 2 ^ (k + 1) = 2 ^ k)) (sioCheckPins v) := by
  have hpos : 0 < 2 ^ k := Nat.two_pow_pos k
  have hpre : (sioCheckPins v).prescaler = s.prescaler + 1 := by
    obtain ⟨b, hc⟩ := sioCheckPins_sio v
    rw [hc]
    exact hp
  rw [serialEdges_exclusive _ _ _ (by simp only [decide_eq_true_eq, decide_eq_false_iff_not]; omega)]
  unfold sioDivided dividedFalls dividedRises
  simp only [hpre, prescaler_mod s.prescaler _ hk]

section
variable {s v : State} (hv : SerialInput s v)
include hv

theorem pinSck_next : pinSck v = sckNext s := hv.pins 0 (by decide)

/-- The edges of an external clock are those of SCK since the sample before (R411). -/
theorem sioExternal_edges :
    sioExternal (sioCheckPins v) =
      serialEdges (s.sio.sckPrev && !sckNext s) (!s.sio.sckPrev && sckNext s) (sioCheckPins v) := by
  have hsck : pinSck (sioCheckPins v) = sckNext s ∧ (sioCheckPins v).sio.sckPrev = s.sio.sckPrev := by
    obtain ⟨b, hc⟩ := sioCheckPins_sio v
    rw [hc, ← pinSck_next hv, ← hv.sio]
    exact ⟨rfl, rfl⟩
  rw [serialEdges_exclusive _ _ _ (by simp +contextual)]
  unfold sioExternal
  rw [hsck.1, hsck.2]

theorem sioClocked_edges (hp : v.prescaler = s.prescaler + 1) :
    sioClocked (sioCheckPins v) = serialEdges (serialFalls s) (serialRises s) (sioCheckPins v) := by
  have hsel : (sioCheckPins v).sio.ck = s.sio.ck := by
    obtain ⟨b, hc⟩ := sioCheckPins_sio v
    rw [hc, ← hv.sio]
  have hck : ∀ k : BitVec 2, k = 0 ∨ k = 1 ∨ k = 2 ∨ k = 3 := by decide
  unfold sioClocked serialFalls serialRises
  rw [hsel]
  rcases hck s.sio.ck with h | h | h | h <;> rw [h]
  · exact sioExternal_edges hv
  · rfl
  · exact sioDivided_edges s v hp 2 ⟨128, rfl⟩
  · exact sioDivided_edges s v hp 5 ⟨16, rfl⟩

/-- A transfer that the edges of a cycle reach, whatever clock gives them. -/
theorem serialAfter_of_edges (t : State) (falls rises q : Bool) (hts : s.sio.ts = true)
    (hs : t.sio = { (serialEdges falls rises (sioCheckPins v)).sio with sckPrev := q })
    (hi : t.irq.sio = (serialEdges falls rises (sioCheckPins v)).irq.sio) : serialAfter s t falls rises :=
  serialAfter_edges s t v falls rises q hv.sio hv.irq hv.ports (hv.pins 2 (by decide)) hts ⟨hs, hi⟩

end

/-- What leaves the interface and the ports alone, takes the next sample and enters no reset. -/
theorem serialInput_of_frame (s v : State) (hs : v.sio = s.sio) (hi : v.irq.sio = s.irq.sio) (hp : v.ports = s.ports)
    (ho : v.pins = (nextSample s).pins) (hf : v.freeIdx = (nextSample s).freeIdx)
    (hm : v.mode = s.mode ∨ (isWaiting s.mode ∧ v.mode = .run)) : SerialInput s v := by
  have hreleased : pinsReleased v = pinsReleased s := by
    unfold pinsReleased
    rcases hm with hm | ⟨⟨w, g, hw⟩, hm⟩
    · rw [hm]
    · rw [hm, hw]
  refine ⟨hs, hi, hp, pinsD_low (nextSample s) v (hp.trans ?_) (hs.trans ?_) ho hf (hreleased.trans ?_)⟩
  · exact (nextSample_field State.ports (fun _ _ _ _ => rfl) s).symm
  · exact (nextSample_field State.sio (fun _ _ _ _ => rfl) s).symm
  · exact (nextSample_field pinsReleased (fun _ _ _ _ => rfl) s).symm

/-- The state in which the serial interface has its part of a clocked cycle, after the timers and the converter. -/
def sioInput (s : State) : State := { tm1Cycle (tm1Input s) with adc := (adcCycle (nextSample s)).adc }

theorem sioInput_serial (s : State) : SerialInput s (sioInput s) ∧ (sioInput s).prescaler = s.prescaler + 1 := by
  obtain ⟨t1, b, o, m, hc, hm⟩ := timers_frame s
  have hirq : (intCycle (nextSample s)).irq.sio = s.irq.sio := nextSample_field (·.irq.sio) (fun _ _ _ _ => rfl) s
  change tm1Cycle (tm1Input s) = _ at hc
  refine ⟨serialInput_of_frame s (sioInput s) ?sio ?irq ?ports ?pins ?draw ?mode, ?prescaler⟩
  all_goals
    unfold sioInput
    rw [hc]
  case irq => exact hirq
  case mode => exact hm

theorem clockedCycle_serial (s : State) (h : wdtResetsNext s = false) :
    (clockedCycle s).sio = (sioCycle (sioInput s)).sio ∧ (clockedCycle s).irq.sio = (sioCycle (sioInput s)).irq.sio := by
  have e : clockedCycle s = _ := clockedCycle_eq s
  rw [h, if_neg Bool.false_ne_true] at e
  rw [e]
  exact ⟨rfl, rfl⟩

/-- Settles O58: eight clocks keep `Transferring`; the edges of a cycle are `sioClocked_edges`. -/
theorem serialTransfer : Obligations.SerialTransfer := by
  refine ⟨fun s si he ht hc hts hd hl hm => ?eight, fun s h => ?cycle⟩
  case eight =>
    intro clock t
    have hstart : Transferring s si 0 s :=
      ⟨ht, (pinsD_si s he hd).trans hl, hc, hts, nofun, rfl⟩
    have hend : Transferring s si 8 t := transferring_iterate s si hstart 8 (Nat.le_refl 8)
    have hrun : ∀ n, n < 8 → Transferring s si n (clock^[n] s) ∧
        (clock (clock^[n] s)).sio.soLatch = s.sio.sfr.getLsbD (7 - n) := fun n hn =>
      have hn' := transferring_iterate s si hstart n (Nat.le_of_lt hn)
      ⟨hn', (transferring_succ s _ si n hn hn').2⟩
    have hlast : t.sio.soLatch = s.sio.sfr.getLsbD 0 := by
      rw [show t = clock (clock^[7] s) from Function.iterate_succ_apply' clock 7 s]
      exact (hrun 7 (by decide)).2
    refine ⟨hend.shifted.trans (shiftIn_eight si _), hlast, hend.going, hend.request rfl,
      fun n hn => ⟨(hrun n hn).1.going.trans (decide_eq_true hn), (hrun n hn).2⟩⟩
  case cycle =>
    obtain ⟨hv, hp⟩ := sioInput_serial s
    obtain ⟨hs, hi⟩ := clockedCycle_serial s h
    have htsv : (sioInput s).sio.ts = s.sio.ts := by rw [hv.sio]
    refine ⟨fun hts => ?going, fun _ => ?sck, fun hts => ?idle⟩
    case going =>
      refine serialAfter_of_edges hv _ (serialFalls s) (serialRises s) (pinSck (sioInput s)) hts (hs.trans ?_) (hi.trans ?_)
      all_goals
        unfold sioCycle
        rw [htsv, hts, if_pos rfl, sioClocked_edges hv hp]
    case sck => exact (congrArg Sio.sckPrev hs).trans (pinSck_next hv)
    case idle =>
      rw [hs, hi]
      unfold sioCycle
      rw [htsv, hts, if_neg Bool.false_ne_true, ← hv.sio, ← hv.irq]
      exact ⟨rfl, rfl⟩

end Sys2Proof.Machine
end

section
/-! HALT, STOP and the waits (O45, O46): a step of each is one cycle of it, which leaves alone what `quietView` shows. -/

namespace Sys2Proof.Machine

/-! ### Waits -/

/-- The pulse of a wait comes in the next clocked cycle: fx/128 after a reset, the selected one after STOP (R464, R501). -/
def waitComes (w : WaitFor) (s : State) : Bool :=
  tm1Division (if w = .stopRelease then s.tm1.ck.toNat else 0) (s.prescaler.toNat + 1)

/-- That pulse ends the wait (R370). -/
def waitEnds (w : WaitFor) (s : State) : Bool := waitComes w s && decide (s.tm1.count = waitModulo w s)

theorem waitClock_eq (w : WaitFor) (s : State) :
    waitClock w s = tm1Division (if w = .stopRelease then s.tm1.ck.toNat else 0) s.prescaler.toNat := by
  cases w <;> rfl

theorem tm1Cycle_wait (w : WaitFor) (g : Nat) (s : State) (hm : s.mode = .wait w g) :
    tm1Cycle s = if waitClock w s then waitCount w s else s := by
  unfold tm1Cycle
  rw [hm]

/-- Timer 1, its request, TM1OUT_FF and the mode after a clocked cycle of a wait. -/
theorem clockedCycle_wait (w : WaitFor) (s : State) (hm : s.mode = .wait w 0) (h : wdtResetsNext s = false) :
    let t := clockedCycle s
    let ends := waitEnds w s
    t.mode = (if ends then .run else .wait w 0) ∧
      t.tm1 = { s.tm1 with count := if ends then 0 else if waitComes w s then s.tm1.count + 1 else s.tm1.count } ∧
      t.tm1Out = (if ends && s.tm1.en then !s.tm1Out else s.tm1Out) ∧
      (ends = false → t.irq.tm1 = s.irq.tm1) ∧ (ends = true → w ≠ .resetB ∨ s.irq.tm1 = true → t.irq.tm1 = true) := by
  intro t ends
  obtain ⟨-, htm1, hout, hmode, -, hirq, -⟩ := clockedCycle_of_tm1 s h
  have hfree : cascadeNext s = false := by
    unfold cascadeNext tm1Free
    rw [hm, Bool.and_false]
  have hin := tm1Input_eq s
  rw [hfree, timerAfter_none, timerMatches_none, Bool.or_false, Bool.xor_false] at hin
  have hclock : waitClock w (tm1Input s) = waitComes w s := by
    rw [waitClock_eq, hin]
    exact dvd_tm1Division _ _
  have hmod : waitModulo w (tm1Input s) = waitModulo w s := by
    rw [hin]
    cases w <;> rfl
  have hin1 : (tm1Input s).tm1 = s.tm1 ∧ (tm1Input s).tm1Out = s.tm1Out ∧ (tm1Input s).mode = s.mode ∧
      (tm1Input s).irq.tm1 = s.irq.tm1 := by
    rw [hin]
    exact ⟨rfl, rfl, rfl, rfl⟩
  obtain ⟨itm1, iout, imode, iirq⟩ := hin1
  have hcycle := tm1Cycle_wait w 0 (tm1Input s) (imode.trans hm)
  rw [hclock] at hcycle
  show (clockedCycle s).mode = _ ∧ (clockedCycle s).tm1 = _ ∧ (clockedCycle s).tm1Out = _ ∧
    (_ → (clockedCycle s).irq.tm1 = _) ∧ (_ → _ → (clockedCycle s).irq.tm1 = _)
  rw [hmode, htm1, hout, hirq, hcycle, show ends = (waitComes w s && decide (s.tm1.count = waitModulo w s)) from rfl]
  cases waitComes w s
  case false =>
    rw [if_neg Bool.false_ne_true, imode, itm1, iout, iirq]
    exact ⟨hm, rfl, rfl, fun _ => rfl, nofun⟩
  case true =>
    by_cases hc : s.tm1.count = waitModulo w s
    · rw [if_pos rfl, waitCount_last w _ (by rw [hmod, itm1]; exact hc), itm1, iout, decide_eq_true hc]
      refine ⟨rfl, rfl, ?_, nofun, fun _ hw => ?_⟩
      · simp only [Bool.true_and]
      · show waitIrq w (tm1Input s) = true
        cases w
        case resetB =>
          show ((tm1Input s).irq.tm1 || _) = true
          rw [iirq, hw.resolve_left (fun hne => hne rfl), Bool.true_or]
        all_goals rfl
    · rw [if_pos rfl, waitCount_before w _ (by rw [hmod, itm1]; exact hc), itm1, decide_eq_false hc]
      exact ⟨imode.trans hm, rfl, iout, fun _ => iirq, nofun⟩

/-- A reset by the watchdog within a cycle, or what the cycle leaves alone. -/
theorem clockedCycle_outcome (s : State) (hr : s.rstSig = false) :
    (clockedCycle s).rstSig = wdtResetsNext s ∧
      (wdtResetsNext s = true → (clockedCycle s).pc = 0 ∧ (clockedCycle s).mode = .run) ∧
      (wdtResetsNext s = false → quietView { clockedCycle s with mode := s.mode } = quietView s ∧
        ((clockedCycle s).mode = s.mode ∨ (isWaiting s.mode ∧ (clockedCycle s).mode = .run))) := by
  obtain ⟨-, -, hrst, hreset, -⟩ := watchdogResets s hr
  refine ⟨hrst, fun hw => ?_, fun hw => clockedCycle_quiet s (hrst.trans hw)⟩
  obtain ⟨hpc, hmode, -⟩ := hreset hw
  exact ⟨hpc, hmode⟩

/-- `IRQ_DLY` set, what `quietView` shows of two states still agrees. -/
theorem quietView_withIrqDly {s t : State} (f : IrqSet) (h : quietView t = quietView s) :
    quietView { t with irqDly := f } = quietView { s with irqDly := f } :=
  congrArg (fun z : State => { z with irqDly := f }) h

/-- A counted cycle of a wait that the watchdog resets. -/
theorem waitCycle_reset (w : WaitFor) (s : State) (h : (clockedCycle s).rstSig = true) :
    waitCycle w 0 s = clockedCycle s := if_pos h

/-- A counted cycle of a wait that it does not. -/
theorem waitCycle_counts (w : WaitFor) (s : State) (h : (clockedCycle s).rstSig = false) :
    waitCycle w 0 s =
      (let u := { clockedCycle s with irqDly := s.irq }
       if overridden u then { u with mode := s.mode } else if isRunning u.mode then acceptCheck u else u) :=
  if_neg (by rw [h]; exact Bool.false_ne_true)

theorem step_wait (w : WaitFor) (g : Nat) (s : State) (ho : overridden s = false) (hm : s.mode = .wait w g) :
    step s = .next (clearRstSig (waitCycle w g s)) := by
  rw [step_of_mode s ho]
  unfold modeStep
  rw [hm]
  rfl

/-- Settles O46: a run of pulses by `waitCount_iterate` and `waitCount_end`, a cycle by `clockedCycle_wait`. -/
theorem waitsEnd : Obligations.WaitsEnd := by
  refine fun w s n => ⟨fun h0 => ?run, fun ho hm => step_wait w (n + 1) s ho hm, fun ho hm => ?cycle⟩
  case run =>
    intro last
    have hlast : (waitModulo w s).toNat = last := waitModulo_toNat w s
    refine ⟨fun hn => waitCount_iterate w s h0 n (hlast ▸ hn), ?_⟩
    intro t
    have ht : t = _ := hlast ▸ waitCount_end w s h0
    rw [ht]
    refine ⟨rfl, rfl, rfl, rfl, rfl, fun hw => ?_, ?_⟩
    · cases w
      case resetB => exact absurd rfl hw
      all_goals rfl
    · rintro rfl
      exact ⟨rfl, fun h1 => by show (s.irq.tm1 || _) = true; rw [h1, Bool.true_or]⟩
  case cycle =>
    intro pulse comes last ends u
    have hends : ends = waitEnds w s := by cases w <;> rfl
    refine ⟨?pulse, step_wait w 0 s ho hm, fun hr hw => ?reset, fun hr hw => ?counts⟩
    case pulse =>
      rw [tm1Cycle_wait w 0 s hm, waitClock_eq]
      rfl
    case reset =>
      obtain ⟨hrst, hreset, -⟩ := clockedCycle_outcome s hr
      exact ⟨waitCycle_reset w s (hrst.trans hw), (hreset hw).1⟩
    case counts =>
      obtain ⟨hrst, -, hquiet⟩ := clockedCycle_outcome s hr
      obtain ⟨hmode, htm1, hout, hkept, hset⟩ := clockedCycle_wait w s hm hw
      have hcycle : waitCycle w 0 s =
          if overridden u then { u with mode := s.mode } else if isRunning u.mode then acceptCheck u else u :=
        waitCycle_counts w s (hrst.trans hw)
      rw [hends]
      refine ⟨quietView_withIrqDly s.irq (hquiet hw).1, hmode, htm1, hout, hkept, hset, fun hu => ?waits,
        fun hu ho => ?starts, fun ho => ?held⟩
      case waits =>
        have hself : { u with mode := s.mode } = u := by rw [hm, ← hu]
        rw [hcycle, hself, hu]
        exact ite_self u
      case starts => rw [hcycle, ho, hu]; rfl
      case held => rw [hcycle, if_pos ho, hm]

/-! ### HALT -/

theorem adcCycle_idle (t : State) (h : t.adc.seq = .idle) : (adcCycle t).adc = t.adc := by
  unfold adcCycle
  rw [h]

/-- A continuous conversion in progress moves on, and ends with its 25th cycle (R392). -/
theorem adcCycle_continuous (t : State) (n : Nat) (b : Bool) (h : t.adc.seq = .continuous n b) :
    (adcCycle t).adc.seq = if n = 24 then .idle else .continuous (n + 1) b := by
  unfold adcCycle
  rw [h]
  exact if_congr (by omega) rfl rfl

/-- A single comparison in progress ends with its third (R393). -/
theorem adcCycle_single (t : State) (n : Nat) (b : Bool) (h : t.adc.seq = .single n b) :
    (adcCycle t).adc.seq = if n = 2 then .idle else .single (n + 1) b := by
  unfold adcCycle
  rw [h]
  exact if_congr (by omega) rfl rfl

theorem clockedCycle_adc (s : State) (h : wdtResetsNext s = false) :
    (clockedCycle s).adc = (adcCycle (nextSample s)).adc := by
  have e : clockedCycle s = _ := clockedCycle_eq s
  rw [h, if_neg Bool.false_ne_true] at e
  rw [e]

theorem step_halt (h : Nibble) (s : State) (ho : overridden s = false) (hm : s.mode = .halt h) :
    step s = .next (clearRstSig (haltCycle h s)) := by
  rw [step_of_mode s ho]
  unfold modeStep
  rw [hm]
  rfl

theorem haltCycle_reset (h : Nibble) (s : State) (hr : (clockedCycle s).rstSig = true) :
    haltCycle h s = clockedCycle s := if_pos hr

/-- A cycle of HALT that the watchdog does not reset: the release test (R462). -/
theorem haltCycle_tests (h : Nibble) (s : State) (hr : (clockedCycle s).rstSig = false) :
    haltCycle h s =
      (let u := { clockedCycle s with irqDly := s.irq }
       if haltRelease u h u.irq && !overridden u then acceptCheck { u with mode := .run } else u) :=
  if_neg (by rw [hr]; exact Bool.false_ne_true)

/-- A release that is not there, or that the sample defers (log 21). -/
theorem not_released {release deferred : Bool} (h : release = false ∨ deferred = true) :
    ¬ (release && !deferred) = true := by
  rcases h with rfl | rfl <;> simp

/-! ### STOP -/

/-- The state in which the serial interface has its part of a cycle of STOP. -/
def stopInput (s : State) : State :=
  if tm0ExtPulse (nextSample s) && decide ((intCycle (nextSample s)).tm0.ck = 3) then tm0Pulse (intCycle (nextSample s))
  else intCycle (nextSample s)

/-- In STOP timer 0 counts INT alone, and timer 1 nothing (R466). -/
theorem stopInput_eq (c : Nibble) (s : State) (hm : s.mode = .stop c) :
    let pulse := decide (s.tm0.ck = 3) && tm0EdgeNext s
    stopInput s =
      { s with
        pins := (nextSample s).pins, inputs := (nextSample s).inputs, freeIdx := (nextSample s).freeIdx
        intPrev := pinInt (nextSample s)
        tm0 := timerAfter s.tm0 pulse
        irq := { (intCycle (nextSample s)).irq with tm0 := s.irq.tm0 || timerMatches s.tm0 pulse } } := by
  intro pulse
  have htm0 : (intCycle (nextSample s)).tm0 = s.tm0 := nextSample_field State.tm0 (fun _ _ _ _ => rfl) s
  have hfree : tm1Free (intCycle (nextSample s)) = false := by
    show tm1Free (nextSample s) = false
    rw [nextSample_field tm1Free (fun _ _ _ _ => rfl)]
    unfold tm1Free
    rw [hm]
  have hcond : (tm0ExtPulse (nextSample s) && decide ((intCycle (nextSample s)).tm0.ck = 3)) = pulse := by
    rw [tm0ExtPulse_next, htm0, Bool.and_comm]
  unfold stopInput
  rw [hcond]
  cases pulse
  · rw [if_neg Bool.false_ne_true, timerAfter_none, timerMatches_none, Bool.or_false]
    rw [nextSample_frame]
    rfl
  · rw [if_pos rfl, tm0Pulse_eq, hfree]
    simp only [Bool.and_false, timerAfter_none, timerMatches_none, Bool.or_false, Bool.xor_false]
    rw [nextSample_frame]
    rfl

/-- The serial interface's part of a cycle of STOP touches the interface and its request. -/
theorem sioStopCycle_frame (s : State) :
    ∃ x b, sioStopCycle s = { s with sio := x, irq := { s.irq with sio := b } } := by
  unfold sioStopCycle
  by_cases hk : (s.sio.ts && decide (s.sio.ck = 0)) = true
  · obtain ⟨x, b, h⟩ := sioClocked_frame s
    have hck : (sioCheckPins s).sio.ck = 0 := by
      obtain ⟨d, hd⟩ := sioCheckPins_sio s
      rw [hd]
      exact of_decide_eq_true (Bool.and_eq_true_iff.mp hk).2
    have hext : sioExternal (sioCheckPins s) = sioClocked (sioCheckPins s) := by
      unfold sioClocked
      rw [hck]
      rfl
    rw [if_pos hk, hext, h]
    exact ⟨_, b, rfl⟩
  · rw [if_neg hk]
    exact ⟨_, s.irq.sio, rfl⟩

/-- An external clock moves a transfer in STOP (R466). -/
theorem stoppedCycle_transfer (s : State) (hv : SerialInput s (stopInput s)) (hts : s.sio.ts = true)
    (hck : s.sio.ck = 0) (f : IrqSet) :
    serialAfter s { stoppedCycle s with irqDly := f } (s.sio.sckPrev && !sckNext s) (!s.sio.sckPrev && sckNext s) ∧
      (stoppedCycle s).sio.sckPrev = sckNext s := by
  have hcond : ((stopInput s).sio.ts && decide ((stopInput s).sio.ck = 0)) = true := by
    rw [hv.sio, hts, hck]
    rfl
  have e : stoppedCycle s =
      (let t := sioExternal (sioCheckPins (stopInput s))
       { t with sio := { t.sio with sckPrev := pinSck (stopInput s) } }) := by
    show sioStopCycle (stopInput s) = _
    unfold sioStopCycle
    rw [if_pos hcond]
  rw [sioExternal_edges hv] at e
  rw [e]
  exact ⟨serialAfter_of_edges hv _ _ _ (pinSck (stopInput s)) hts rfl rfl, pinSck_next hv⟩

/-- Nothing else does. -/
theorem stoppedCycle_noTransfer (s : State) (hv : SerialInput s (stopInput s)) (h : s.sio.ts = false ∨ s.sio.ck ≠ 0) :
    { (stoppedCycle s).sio with sckPrev := s.sio.sckPrev } = s.sio ∧ (stoppedCycle s).irq.sio = s.irq.sio := by
  have hcond : ¬ ((stopInput s).sio.ts && decide ((stopInput s).sio.ck = 0)) = true := by
    rw [hv.sio]
    rcases h with h | h
    · rw [h]
      exact Bool.false_ne_true
    · rw [decide_eq_false h, Bool.and_false]
      exact Bool.false_ne_true
  have e : stoppedCycle s =
      { stopInput s with sio := { (stopInput s).sio with sckPrev := pinSck (stopInput s) } } := by
    show sioStopCycle (stopInput s) = _
    unfold sioStopCycle
    rw [if_neg hcond]
  rw [e, ← hv.sio, ← hv.irq]
  exact ⟨rfl, rfl⟩

theorem step_stop (c : Nibble) (s : State) (ho : overridden s = false) (hm : s.mode = .stop c) :
    step s = .next (clearRstSig (stopCycle c s)) := by
  rw [step_of_mode s ho]
  unfold modeStep
  rw [hm]
  rfl

/-- What a cycle of STOP does beside the serial interface: INT at its request and at timer 0, and nothing else (R466). -/
theorem stoppedCycle_counts (c : Nibble) (s : State) (hm : s.mode = .stop c) :
    let t := stoppedCycle s
    let pulse := decide (s.tm0.ck = 3) && tm0EdgeNext s
    t.cfg = s.cfg ∧ t.tm1 = s.tm1 ∧ t.btm = s.btm ∧ t.adc = s.adc ∧ t.prescaler = s.prescaler ∧
      t.pins = (nextSample s).pins ∧ t.inputs = (nextSample s).inputs ∧ t.intPrev = pinInt (nextSample s) ∧
      t.irq.int = (intCycle (nextSample s)).irq.int ∧ t.tm0 = timerAfter s.tm0 pulse ∧
      t.irq.tm0 = (s.irq.tm0 || timerMatches s.tm0 pulse) := by
  intro t pulse
  obtain ⟨x, b, e⟩ := sioStopCycle_frame (stopInput s)
  change t = _ at e
  rw [show stopInput s = _ from stopInput_eq c s hm] at e
  rw [e]
  exact ⟨rfl, rfl, rfl, rfl, rfl, rfl, rfl, rfl, rfl, rfl, rfl⟩

theorem stopInput_serial (c : Nibble) (s : State) (hm : s.mode = .stop c) : SerialInput s (stopInput s) := by
  have hin : stopInput s = _ := stopInput_eq c s hm
  have hirq : (intCycle (nextSample s)).irq.sio = s.irq.sio := nextSample_field (·.irq.sio) (fun _ _ _ _ => rfl) s
  refine serialInput_of_frame s (stopInput s) ?sio ?irq ?ports ?pins ?draw (.inl ?mode)
  all_goals rw [hin]
  case irq => exact hirq

/-- Settles O45: the sample, then a clocked cycle by its parts, then HALT by `haltCycle_tests` and STOP by
`stoppedCycle_counts` with the external clock of `stoppedCycle_transfer`. -/
theorem standbyCyclesWait : Obligations.StandbyCyclesWait := by
  refine fun h s => ⟨⟨nextSample_cons s, nextSample_nil s⟩, fun hw => ?clocked, fun ho hm hr => ?halt, fun ho hm => ?stop⟩
  case clocked =>
    obtain ⟨hpins, hinputs, hpre, hint⟩ := clockedCycle_samples s hw
    have hadc := clockedCycle_adc s hw
    have hseq : (nextSample s).adc = s.adc := nextSample_field State.adc (fun _ _ _ _ => rfl) s
    refine ⟨hpins, hinputs, hpre, hint, hadc, fun hq => ?_, fun n b hq => ?_, fun n b hq => ?_⟩
    · exact hadc.trans ((adcCycle_idle _ (by rw [hseq, hq])).trans hseq)
    · exact (congrArg Adc.seq hadc).trans (adcCycle_continuous _ n b (by rw [hseq, hq]))
    · exact (congrArg Adc.seq hadc).trans (adcCycle_single _ n b (by rw [hseq, hq]))
  case halt =>
    intro u
    obtain ⟨hrst, hreset, hquiet⟩ := clockedCycle_outcome s hr
    refine ⟨step_halt h s ho hm, hrst, fun hu => ?reset, fun hu => ?waits⟩
    case reset =>
      rw [haltCycle_reset h s hu]
      exact ⟨rfl, hreset (hrst.symm.trans hu)⟩
    case waits =>
      obtain ⟨hq, hmode⟩ := hquiet (hrst.symm.trans hu)
      have hstays : (clockedCycle s).mode = s.mode := by
        rcases hmode with hmode | ⟨⟨w, g, hwait⟩, -⟩
        · exact hmode
        · rw [hm] at hwait
          cases hwait
      have hcycle : haltCycle h s =
          if haltRelease u h u.irq && !overridden u then acceptCheck { u with mode := .run } else u :=
        haltCycle_tests h s hu
      rw [← hstays] at hq
      refine ⟨quietView_withIrqDly s.irq hq, fun hn => ?stays, fun hrel hover => ?released⟩
      case stays =>
        rw [hcycle, if_neg (not_released hn)]
        exact ⟨rfl, hstays.trans hm⟩
      case released =>
        rw [hcycle, hrel, hover]
        refine ⟨rfl, fun hi => acceptCheck_disabled _ ?_⟩
        exact (quietView_field State.inte _ _ hq fun _ => rfl).trans hi
  case stop =>
    intro u pulse
    obtain ⟨hcfg, htm1, hbtm, hadc, hpre, hpins, hinputs, hprev, hint, htm0, hirq⟩ := stoppedCycle_counts h s hm
    have hv := stopInput_serial h s hm
    have hcycle : stopCycle h s =
        if stopRelease u h u.irq && !overridden u then { u with mode := .wait .stopRelease u.cfg.oscGrow } else u := rfl
    refine ⟨step_stop h s ho hm, quietView_withIrqDly s.irq (quiet_stoppedCycle s), htm1, hbtm, hadc, hpre, hpins, hinputs,
      intSampled_of_intCycle s u hprev hint, htm0, hirq, fun hts hck => stoppedCycle_transfer s hv hts hck s.irq,
      stoppedCycle_noTransfer s hv, fun hn => ?stays, fun hrel hover => ?released⟩
    case stays => rw [hcycle, if_neg (not_released hn)]
    case released =>
      rw [hcycle, hrel, hover, show u.cfg = s.cfg from hcfg]
      rfl

end Sys2Proof.Machine
end
